-- ==== Sys2Proof/Word.lean ====
section
/-! DEFINITION. The word types of BCL-AIS-BC (spec/00_scope.md R9): every host register and every command word is 32
bits, Y0 and Y1 are 64 bits, a character is 8 bits, a 6-bit group is 6 bits. -/

namespace Sys2Proof

/-- An armored character or a LINE byte (R9). -/
abbrev Byte := BitVec 8

/-- A 6-bit group, and the message-type tag (R9, R26). -/
abbrev Sextet := BitVec 6

/-- A host register, a command word, a REC word (R9). -/
abbrev Word := BitVec 32

/-- A result register Y0 or Y1 (R9). -/
abbrev DWord := BitVec 64

end Sys2Proof
end

