-- ==== Sys2Proof/Syntax.lean ====
section
/-! DEFINITION. The 22 commands of the opcode map (spec/30_encoding.md R58, spec/opcode_table.json), one constructor a
row. -/

namespace Sys2Proof

/-- The cursor a command names with its C field (R56): C0, the main cursor, or C1, the sub-cursor. -/
inductive CursorSel where
  | c0
  | c1
deriving DecidableEq, Repr

/-- A command. `n` is the raw 6-bit N field, of which 1 to 32 are legal (R56, R108). -/
inductive Instr where
  -- system (spec/45_system.md)
  | nop
  | reset
  | clrflags
  -- bit cursor (spec/40_bitcursor.md)
  | bcInit (c : CursorSel)
  | bcClear (c : CursorSel)
  | bcAppend (c : CursorSel)
  | bcFetch (c : CursorSel) (n : Sextet)
  | bcFetchs (c : CursorSel) (n : Sextet)
  | bcLength (c : CursorSel)
  | bcSnapshot
  -- framer and reassembler (spec/41_reassembler.md)
  | feed
  | rsReset
  -- dispatcher and decoder (spec/42_dispatch.md, spec/44_decoders.md)
  | dispatch
  | decode
  | recClear
  -- converters (spec/43_convert.md)
  | signrec
  | posrec
  | posrec27
  | deg
  | degmin
  | ascii6
  | armor6
deriving DecidableEq, Repr

end Sys2Proof
end

