-- ==== Sys2Proof/WellFormed.lean ====
section
/-! DEFINITION. Which commands a command word can stand for: a fetch width is 1 to 32 (spec/40_bitcursor.md R108). The
check of a configuration stands beside the layouts, in Sys2Proof/Machine/Layouts.lean (`Config.wf`). -/

namespace Sys2Proof

/-- A legal fetch width (R108). -/
def widthOk (n : Sextet) : Bool := 1 ≤ n.toNat && n.toNat ≤ 32

/-- A command some legal word encodes (R57). -/
def Instr.wf : Instr → Bool
  | .bcFetch _ n => widthOk n
  | .bcFetchs _ n => widthOk n
  | .nop => true
  | .reset => true
  | .clrflags => true
  | .bcInit _ => true
  | .bcClear _ => true
  | .bcAppend _ => true
  | .bcLength _ => true
  | .bcSnapshot => true
  | .feed => true
  | .rsReset => true
  | .dispatch => true
  | .decode => true
  | .recClear => true
  | .signrec => true
  | .posrec => true
  | .posrec27 => true
  | .deg => true
  | .degmin => true
  | .ascii6 => true
  | .armor6 => true

end Sys2Proof
end

