-- ==== Sys2Proof/Decode.lean ====
section
/-! DEFINITION. Command words (spec/30_encoding.md R53 to R59): the decoder, total on 32-bit words and rejecting by name,
and after it the encoder. -/

namespace Sys2Proof

/-- Why a word is no command (R57). -/
inductive DecodeError where
  /-- OPC is not in the opcode map. -/
  | badOpcode
  /-- A reserved bit of the format is 1. -/
  | reservedBits
  /-- A format-CN word with N = 0 or N > 32. -/
  | badWidth
deriving DecidableEq, Repr

/-- The formats of R55. -/
inductive Format where
  | z
  | c
  | cn
deriving DecidableEq, Repr

/-- RSVMASK of R57: the bits of R54 a format does not use. -/
def rsvMask : Format → Word
  | .z => 0x00FFFFFF#32
  | .c => 0x00FEFFFF#32
  | .cn => 0x00FEFFC0#32

/-- OPC, bits [31:24] (R54). -/
def fieldOpc (w : Word) : BitVec 8 := w.extractLsb' 24 8

/-- C, bit [16] (R54): 0 names C0, 1 names C1 (R56). -/
def fieldC (w : Word) : CursorSel := if w.getLsbD 16 then .c1 else .c0

/-- N, bits [5:0] (R54). -/
def fieldN (w : Word) : Sextet := w.extractLsb' 0 6

/-- A row of the opcode map (R58): the OPC value, the format, and the command its fields build. -/
structure OpRow where
  opc    : BitVec 8
  format : Format
  build  : CursorSel → Sextet → Instr

/-- The opcode map (R58). -/
def opcodeMap : List OpRow :=
  [ ⟨0x00#8, .z, fun _ _ => .nop⟩,
    ⟨0x01#8, .z, fun _ _ => .reset⟩,
    ⟨0x02#8, .z, fun _ _ => .clrflags⟩,
    ⟨0x10#8, .c, fun c _ => .bcInit c⟩,
    ⟨0x11#8, .c, fun c _ => .bcClear c⟩,
    ⟨0x12#8, .c, fun c _ => .bcAppend c⟩,
    ⟨0x13#8, .cn, fun c n => .bcFetch c n⟩,
    ⟨0x14#8, .cn, fun c n => .bcFetchs c n⟩,
    ⟨0x15#8, .c, fun c _ => .bcLength c⟩,
    ⟨0x16#8, .z, fun _ _ => .bcSnapshot⟩,
    ⟨0x20#8, .z, fun _ _ => .feed⟩,
    ⟨0x21#8, .z, fun _ _ => .rsReset⟩,
    ⟨0x30#8, .z, fun _ _ => .dispatch⟩,
    ⟨0x31#8, .z, fun _ _ => .decode⟩,
    ⟨0x32#8, .z, fun _ _ => .recClear⟩,
    ⟨0x40#8, .z, fun _ _ => .signrec⟩,
    ⟨0x41#8, .z, fun _ _ => .posrec⟩,
    ⟨0x42#8, .z, fun _ _ => .posrec27⟩,
    ⟨0x43#8, .z, fun _ _ => .deg⟩,
    ⟨0x44#8, .z, fun _ _ => .degmin⟩,
    ⟨0x45#8, .z, fun _ _ => .ascii6⟩,
    ⟨0x46#8, .z, fun _ _ => .armor6⟩ ]

/-- The row of an OPC value. -/
def opRow (opc : BitVec 8) : Option OpRow := opcodeMap.find? (fun r => r.opc == opc)

/-- The decode procedure of R57, in its order: opcode, reserved bits, width. -/
def decode (w : Word) : Except DecodeError Instr :=
  match opRow (fieldOpc w) with
  | none => .error .badOpcode
  | some r =>
    if w &&& rsvMask r.format ≠ 0#32 then .error .reservedBits
    else if r.format = .cn ∧ ¬ widthOk (fieldN w) then .error .badWidth
    else .ok (r.build (fieldC w) (fieldN w))

/-- The command a table word of `nbits` bits stands for, as `decode` reads it; every bit above `nbits` is 0. -/
def decodeTableWord (nbits w : Nat) : Option Instr :=
  (decode (BitVec.ofNat 32 (w % 2 ^ nbits))).toOption

/-- The C bit of a cursor (R56). -/
def CursorSel.bit : CursorSel → BitVec 1
  | .c0 => 0#1
  | .c1 => 1#1

/-- `{OPC, 24'b0}` (R55, format Z). -/
def wordZ (opc : BitVec 8) : Word := opc ++ 0#24

/-- `{OPC, 7'b0, C, 16'b0}` (R55, format C). -/
def wordC (opc : BitVec 8) (c : CursorSel) : Word := opc ++ 0#7 ++ c.bit ++ 0#16

/-- `{OPC, 7'b0, C, 10'b0, N}` (R55, format CN). -/
def wordCN (opc : BitVec 8) (c : CursorSel) (n : Sextet) : Word := opc ++ 0#7 ++ c.bit ++ 0#10 ++ n

/-- The word of a command (R55, R58). -/
def encode : Instr → Word
  | .nop => wordZ 0x00#8
  | .reset => wordZ 0x01#8
  | .clrflags => wordZ 0x02#8
  | .bcInit c => wordC 0x10#8 c
  | .bcClear c => wordC 0x11#8 c
  | .bcAppend c => wordC 0x12#8 c
  | .bcFetch c n => wordCN 0x13#8 c n
  | .bcFetchs c n => wordCN 0x14#8 c n
  | .bcLength c => wordC 0x15#8 c
  | .bcSnapshot => wordZ 0x16#8
  | .feed => wordZ 0x20#8
  | .rsReset => wordZ 0x21#8
  | .dispatch => wordZ 0x30#8
  | .decode => wordZ 0x31#8
  | .recClear => wordZ 0x32#8
  | .signrec => wordZ 0x40#8
  | .posrec => wordZ 0x41#8
  | .posrec27 => wordZ 0x42#8
  | .deg => wordZ 0x43#8
  | .degmin => wordZ 0x44#8
  | .ascii6 => wordZ 0x45#8
  | .armor6 => wordZ 0x46#8

end Sys2Proof
end

