-- ==== Sys2Proof/Config.lean ====
section
/-! DEFINITION. What is fixed when an instance is built (spec/00_scope.md R8, spec/44_decoders.md R171 to R178): the
sizes, the known tags, the layouts and the window's base address; and the values the spec leaves unconstrained (draws),
as constants without a body. The default values stand in Sys2Proof/Machine/Layouts.lean. -/

namespace Sys2Proof

mutual
/-- A field descriptor of a layout (R178). A slot is an index of REC, relative to the `base` it runs at (R177). -/
inductive Desc where
  /-- U(w, s): an unsigned field of w bits into slot s. -/
  | u (w s : Nat)
  /-- S(w, s): a two's-complement field of w bits into slot s. -/
  | s (w s : Nat)
  /-- LAT27(s): a 27-bit latitude in 1/10000 minute. -/
  | lat27 (s : Nat)
  /-- LON28(s): a 28-bit longitude in 1/10000 minute. -/
  | lon28 (s : Nat)
  /-- LAT17(s): a 17-bit latitude in 1/10 minute, scaled by 1000. -/
  | lat17 (s : Nat)
  /-- LON18(s): an 18-bit longitude in 1/10 minute, scaled by 1000. -/
  | lon18 (s : Nat)
  /-- TEXT(k, s): k 6-bit characters into slots s to s + k - 1. -/
  | text (k s : Nat)
  /-- SKIP(w): w bits consumed, nothing stored. -/
  | skip (w : Nat)
  /-- FLAGOR(s, m): m is ORed into slot s. -/
  | flagor (s : Nat) (m : Word)
  /-- SEL(f, d0, d1): d0 where slot f holds 0, else d1. -/
  | sel (f : Nat) (d0 d1 : Descs)
  /-- CASE(f, arms, dflt): the first arm whose value slot f holds, else dflt. -/
  | case (f : Nat) (arms : Arms) (dflt : Descs)
  /-- REPEAT(c, max, sub, stride): sub while bits are left, the count into slot c. -/
  | rept (c max : Nat) (sub : Descs) (stride : Nat)
  /-- RESIDUAL(s): the residual length into slot s, the cursor copied to C1. -/
  | residual (s : Nat)
deriving DecidableEq, Repr

/-- A list of descriptors (R171). -/
inductive Descs where
  | nil
  | cons (d : Desc) (ds : Descs)
deriving DecidableEq, Repr

/-- The arms of a CASE: (value, list) pairs (R178). -/
inductive Arms where
  | nil
  | cons (value : Word) (ds : Descs) (rest : Arms)
deriving DecidableEq, Repr
end

/-- A length rule (R172), in armored bits (R185). -/
inductive LenRule where
  | exact (b : Nat)
  | range (lo hi : Nat)
deriving DecidableEq, Repr

/-- A layout (len, zero_fill, descs) (R171). -/
structure Layout where
  len      : LenRule
  zeroFill : Bool
  descs    : Descs
deriving DecidableEq, Repr

/-- The implementation parameters (R8), and BASE (spec/20_memory.md R46). -/
structure Config where
  /-- CAP_CHARS: characters a cursor buffer holds. -/
  capChars  : Nat
  /-- LINE_CAP: bytes of the LINE array. -/
  lineCap   : Nat
  /-- REC_WORDS: words of the record memory. -/
  recWords  : Nat
  /-- KNOWN_TAGS: the tags the dispatcher recognises. -/
  knownTags : List Nat
  /-- LAYOUT: the partial map from tag to layout, as (tag, layout) pairs. -/
  layouts   : List (Nat × Layout)
  /-- BASE: the host address of offset 0x0000. -/
  base      : Nat
deriving DecidableEq, Repr

/-- FREE VALUE (log entry 2). `draw_6()`: the group of an invalid character inside a fetch (R110), a fresh one at each
draw number. -/
opaque Config.freeGroup : Nat → Sextet

/-- FREE VALUE (log entry 3). What a host read of a cursor character at or beyond BUF_LEN returns (R23, R42), a fresh
one at each draw number. -/
opaque Config.freeBufByte : Nat → Byte

/-- FREE VALUE (log entry 4). LINE[i] after reset number `k`, until it is written (R226). -/
opaque Config.freeLine : (k i : Nat) → Byte

/-- FREE VALUE (log entry 4). REC[i] after reset number `k`, until it is written (R226). -/
opaque Config.freeRec : (k i : Nat) → Word

end Sys2Proof
end

