-- ==== Sys2Proof/Machine/Layouts.lean ====
section
/-! DEFINITION. Layouts: widths (spec/44_decoders.md R173), the slots a descriptor writes, well-formedness (R181, R193,
R194), the configuration check (spec/00_scope.md R8), and the default layouts and configuration (R197, R198, R8). -/

namespace Sys2Proof

/-- A list of descriptors from a Lean list. -/
def descs : List Desc → Descs
  | [] => .nil
  | d :: ds => .cons d (descs ds)

/-- The descriptors as a Lean list. -/
def Descs.toList : Descs → List Desc
  | .nil => []
  | .cons d ds => d :: ds.toList

/-- A length rule is satisfied by the payload length L (R172). -/
def LenRule.ok : LenRule → Nat → Bool
  | .exact b, len => len == b
  | .range lo hi, len => lo ≤ len && len ≤ hi

/-! ### Widths -/

/-- The width of a fixed-width kind; none for SEL, CASE, REPEAT and RESIDUAL (R173). -/
def Desc.width? : Desc → Option Nat
  | .u w _ => some w
  | .s w _ => some w
  | .skip w => some w
  | .lat27 _ => some 27
  | .lon28 _ => some 28
  | .lat17 _ => some 17
  | .lon18 _ => some 18
  | .text k _ => some (6 * k)
  | .flagor _ _ => some 0
  | .sel _ _ _ => none
  | .case _ _ _ => none
  | .rept _ _ _ _ => none
  | .residual _ => none

/-- The width of a list of fixed-width descriptors: the sum (R173). -/
def Descs.width? : Descs → Option Nat
  | .nil => some 0
  | .cons d ds =>
    match d.width?, ds.width? with
    | some a, some b => some (a + b)
    | _, _ => none

/-- W = width(sub) of a REPEAT (R188); a well-formed layout's sub has one (R181). -/
def Descs.width (ds : Descs) : Nat := ds.width?.getD 0

/-! ### The slots a descriptor can write (R178) -/

mutual
/-- The REC words `run(d, base)` can write. -/
def Desc.slots : Desc → Nat → List Nat
  | .u _ s, base => [base + s]
  | .s _ s, base => [base + s]
  | .lat27 s, base => [base + s]
  | .lon28 s, base => [base + s]
  | .lat17 s, base => [base + s]
  | .lon18 s, base => [base + s]
  | .text k s, base => (List.range k).map (fun j => base + s + j)
  | .skip _, _ => []
  | .flagor s _, base => [base + s]
  | .sel _ d0 d1, base => d0.slots base ++ d1.slots base
  | .case _ arms dflt, base => arms.slots base ++ dflt.slots base
  | .rept c max sub stride, base =>
    (base + c) :: (List.range max).flatMap (fun i => sub.slots (base + i * stride))
  | .residual s, base => [base + s]
/-- The REC words a list can write. -/
def Descs.slots : Descs → Nat → List Nat
  | .nil, _ => []
  | .cons d ds, base => d.slots base ++ ds.slots base
/-- The REC words the arms of a CASE can write. -/
def Arms.slots : Arms → Nat → List Nat
  | .nil, _ => []
  | .cons _ ds rest, base => ds.slots base ++ rest.slots base
end

/-! ### The slots a layout names (spec/00_scope.md R8) -/

mutual
/-- The slots a descriptor's parameters name, whether or not a run of it can reach them: the ones it writes, its
selector, its count slot, and those of the lists inside it. -/
def Desc.named : Desc → List Nat
  | .u _ s => [s]
  | .s _ s => [s]
  | .lat27 s => [s]
  | .lon28 s => [s]
  | .lat17 s => [s]
  | .lon18 s => [s]
  | .text k s => (List.range k).map (fun j => s + j)
  | .skip _ => []
  | .flagor s _ => [s]
  | .sel f d0 d1 => f :: (d0.named ++ d1.named)
  | .case f arms dflt => f :: (arms.named ++ dflt.named)
  | .rept c _ sub _ => c :: sub.named
  | .residual s => [s]
/-- The slots a list names. -/
def Descs.named : Descs → List Nat
  | .nil => []
  | .cons d ds => d.named ++ ds.named
/-- The slots the arms of a CASE name. -/
def Arms.named : Arms → List Nat
  | .nil => []
  | .cons _ ds rest => ds.named ++ rest.named
end

/-! ### Well-formed layouts (R181) -/

mutual
/-- The parameter bounds of R178 and R181: U and S widths, SKIP widths, TEXT counts, a REPEAT's sub and stride. -/
def Desc.paramsOk : Desc → Bool
  | .u w _ => 1 ≤ w && w ≤ 32
  | .s w _ => 1 ≤ w && w ≤ 32
  | .lat27 _ => true
  | .lon28 _ => true
  | .lat17 _ => true
  | .lon18 _ => true
  | .text k _ => 1 ≤ k
  | .skip w => 1 ≤ w
  | .flagor _ _ => true
  | .sel _ d0 d1 => d0.paramsOk && d1.paramsOk
  | .case _ arms dflt => arms.paramsOk && dflt.paramsOk
  | .rept _ _ sub stride => sub.paramsOk && sub.width?.any (1 ≤ ·) && 1 ≤ stride
  | .residual _ => true
/-- `Desc.paramsOk` of every descriptor. -/
def Descs.paramsOk : Descs → Bool
  | .nil => true
  | .cons d ds => d.paramsOk && ds.paramsOk
/-- `Desc.paramsOk` of every descriptor of every arm. -/
def Arms.paramsOk : Arms → Bool
  | .nil => true
  | .cons _ ds rest => ds.paramsOk && rest.paramsOk
end

mutual
/-- A selector slot is in `seen`, the header slot 0 and the slots earlier descriptors of the same list can write (R181;
log entry 10). -/
def Desc.selectorsOk : Desc → List Nat → Bool
  | .sel f d0 d1, seen => seen.contains f && d0.selectorsOk [0] && d1.selectorsOk [0]
  | .case f arms dflt, seen => seen.contains f && arms.selectorsOk && dflt.selectorsOk [0]
  | .rept _ _ sub _, _ => sub.selectorsOk [0]
  | .u _ _, _ => true
  | .s _ _, _ => true
  | .lat27 _, _ => true
  | .lon28 _, _ => true
  | .lat17 _, _ => true
  | .lon18 _, _ => true
  | .text _ _, _ => true
  | .skip _, _ => true
  | .flagor _ _, _ => true
  | .residual _, _ => true
/-- `Desc.selectorsOk` down a list, which sees what its earlier descriptors can write. -/
def Descs.selectorsOk : Descs → List Nat → Bool
  | .nil, _ => true
  | .cons d ds, seen => d.selectorsOk seen && ds.selectorsOk (d.slots 0 ++ seen)
/-- `Descs.selectorsOk` of every arm's list. -/
def Arms.selectorsOk : Arms → Bool
  | .nil => true
  | .cons _ ds rest => ds.selectorsOk [0] && rest.selectorsOk
end

/-- lo ≤ hi (R181). -/
def LenRule.wf : LenRule → Bool
  | .exact _ => true
  | .range lo hi => lo ≤ hi

/-! ### Type-specific form (R193, R194) -/

mutual
/-- Some descriptor, at any depth, satisfies `p`. -/
def Desc.anyKind (p : Desc → Bool) : Desc → Bool
  | .sel f d0 d1 => p (.sel f d0 d1) || d0.anyKind p || d1.anyKind p
  | .case f arms dflt => p (.case f arms dflt) || arms.anyKind p || dflt.anyKind p
  | .rept c max sub stride => p (.rept c max sub stride) || sub.anyKind p
  | .u w s => p (.u w s)
  | .s w s => p (.s w s)
  | .lat27 s => p (.lat27 s)
  | .lon28 s => p (.lon28 s)
  | .lat17 s => p (.lat17 s)
  | .lon18 s => p (.lon18 s)
  | .text k s => p (.text k s)
  | .skip w => p (.skip w)
  | .flagor s m => p (.flagor s m)
  | .residual s => p (.residual s)
/-- Some descriptor of the list, at any depth, satisfies `p`. -/
def Descs.anyKind (p : Desc → Bool) : Descs → Bool
  | .nil => false
  | .cons d ds => d.anyKind p || ds.anyKind p
/-- Some descriptor of an arm, at any depth, satisfies `p`. -/
def Arms.anyKind (p : Desc → Bool) : Arms → Bool
  | .nil => false
  | .cons _ ds rest => ds.anyKind p || rest.anyKind p
end

/-- The 27/28-bit position kinds. -/
def Desc.isWidePos : Desc → Bool
  | .lat27 _ => true
  | .lon28 _ => true
  | _ => false

/-- LAT17. -/
def Desc.isLat17 : Desc → Bool
  | .lat17 _ => true
  | _ => false

/-- LON18. -/
def Desc.isLon18 : Desc → Bool
  | .lon18 _ => true
  | _ => false

/-- RESIDUAL. -/
def Desc.isResidual : Desc → Bool
  | .residual _ => true
  | _ => false

/-- Part A and part B of a type 24 layout (R193): each ends with its FLAGOR into the one flags slot g, and the lists
before it write disjoint slots and not g. Nor does the header, so that nothing but the two FLAGORs changes the flags
(log entry 10). -/
def type24PartsOk (header a b : Descs) : Bool :=
  match a.toList.getLast?, b.toList.getLast? with
  | some (.flagor g m), some (.flagor g' m') =>
    let slotsA := (descs a.toList.dropLast).slots 0
    let slotsB := (descs b.toList.dropLast).slots 0
    g == g' && m == 1#32 && m' == 2#32 && slotsA.all (fun t => !slotsB.contains t) &&
      !(header.slots 0 ++ slotsA ++ slotsB).contains g
  | _, _ => false

/-- `U(2, p)` is the last descriptor of the header that can write slot p, so that p holds the part number where the CASE
reads it (R193; log entry 10). -/
def partNumberOk (header : List Desc) (p : Nat) : Bool :=
  (header.filter (fun d => (d.slots 0).contains p)).getLast? == some (.u 2 p)

/-- The form a tag-24 layout must have: a header with `U(2, p)`, then `CASE(p, [(0, A), (1, B)], [])` (R193). -/
def type24Ok (ds : Descs) : Bool :=
  match ds.toList.getLast? with
  | some (.case p (.cons v0 a (.cons v1 b .nil)) .nil) =>
    v0 == 0#32 && v1 == 1#32 && partNumberOk ds.toList.dropLast p && type24PartsOk (descs ds.toList.dropLast) a b
  | _ => false

/-- The type-specific requirements on the layout of a tag (R193, R194; log entry 10). DESIGN CHOICE (log entry 21): for
a tag other than 27, a LAT27 without a LON28, or the reverse, is admitted. -/
def Layout.tagOk (tag : Nat) (l : Layout) : Bool :=
  (l.zeroFill == (tag != 24)) &&
  (tag != 24 || type24Ok l.descs) &&
  (!([6, 8, 17].contains tag) || (l.descs.toList.getLast?.any Desc.isResidual)) &&
  (if tag = 27 then
    !l.descs.anyKind Desc.isWidePos && l.descs.anyKind Desc.isLat17 && l.descs.anyKind Desc.isLon18
   else !l.descs.anyKind Desc.isLat17 && !l.descs.anyKind Desc.isLon18)

/-- A layout is well formed for a tag and a record of `recWords` words (R181, R193, R194), and every slot it names is
below `recWords` (R8). -/
def Layout.wf (recWords tag : Nat) (l : Layout) : Bool :=
  (l.descs.slots 0).all (fun t => 1 ≤ t && t < recWords) && l.descs.named.all (fun t => t < recWords) &&
  l.descs.paramsOk && l.len.wf && l.descs.selectorsOk [0] && l.tagOk tag

/-- The constraints of R8 on a configuration; one that breaks them is refused. -/
def Config.wf (c : Config) : Bool :=
  (1 ≤ c.capChars && c.capChars ≤ 1024) &&
  (1 ≤ c.lineCap && c.lineCap ≤ 1024) &&
  (64 ≤ c.recWords && c.recWords ≤ 1024) &&
  c.knownTags.all (fun t => t < 64) &&
  c.layouts.all (fun p => c.knownTags.contains p.1 && p.2.wf c.recWords p.1) &&
  decide (c.layouts.map Prod.fst).Nodup

/-- The tag is in KNOWN_TAGS (spec/42_dispatch.md R147). -/
def Config.known (c : Config) (tag : Nat) : Bool := c.knownTags.contains tag

/-- LAYOUT(t), where the configuration gives it (R184). -/
def Config.layoutOf (c : Config) (tag : Nat) : Option Layout := c.layouts.lookup tag

/-! ### The defaults -/

/-- The default layout of tag 1, position report (R197). -/
def layout1 : Layout :=
  { len := .exact 168
    zeroFill := true
    descs := descs
      [ .u 2 1, .u 30 2, .u 4 3, .u 8 4, .u 10 5, .u 1 6, .lon28 7, .lat27 8, .u 12 9,
        .u 9 10, .u 6 11, .u 4 12, .u 1 13, .u 1 14, .u 2 15, .u 3 16, .u 14 17 ] }

/-- The default layout of tag 5, static and voyage data (R198). -/
def layout5 : Layout :=
  { len := .exact 426
    zeroFill := true
    descs := descs
      [ .u 2 1, .u 30 2, .u 2 3, .u 30 4, .text 7 5, .text 20 12, .u 8 32, .u 9 33, .u 9 34,
        .u 6 35, .u 6 36, .u 4 37, .u 20 38, .u 8 39, .text 20 40, .u 1 60, .u 1 61 ] }

/-- The defaults of R8. BASE has none (OPEN in spec/92_eei_decisions.md D7): 0, log entry 9. -/
def Config.default : Config :=
  { capChars := 255
    lineCap := 256
    recWords := 128
    knownTags := (List.range 27).map (· + 1)
    layouts := [(1, layout1), (5, layout5)]
    base := 0 }

end Sys2Proof
end

