-- ==== Sys2Proof/Machine/Memory.lean ====
section
/-! DEFINITION. The block's host-writable arrays LINE and REC (spec/10_state.md R28, R29) as sparse data in one canonical
form: (index, value) pairs, indexes strictly rising. An unlisted index has not been written since the last reset and
reads as that reset's draw (spec/70_reset_and_hazards.md R226; log entry 4), which no listed value is known to equal, so
no entry is ever redundant. For w = 8 this is a list of Host.Cell. -/

namespace Sys2Proof.Machine

/-- An array of w-bit elements: the elements written since the last reset. -/
abbrev Memory (w : Nat) := List (Nat × BitVec w)

/-- The listed value of an index. -/
def Memory.get? {w : Nat} : Memory w → Nat → Option (BitVec w)
  | [], _ => none
  | (b, v) :: m, a => if a = b then some v else if a < b then none else Memory.get? m a

/-- Write one element, keeping the indexes rising. -/
def Memory.put {w : Nat} : Memory w → Nat → BitVec w → Memory w
  | [], a, v => [(a, v)]
  | (b, u) :: m, a, v =>
    if a = b then (a, v) :: m
    else if a < b then (a, v) :: (b, u) :: m
    else (b, u) :: Memory.put m a v

/-- Elements 0 to n - 1 all written with `v`. -/
def Memory.fill {w : Nat} (n : Nat) (v : BitVec w) : Memory w := (List.range n).map (fun i => (i, v))

/-- Every index listed after `a` is above it, and rising. -/
def Memory.risingFrom {w : Nat} : Memory w → Nat → Bool
  | [], _ => true
  | (b, _) :: m, a => decide (a < b) && Memory.risingFrom m b

/-- The canonical form: indexes strictly rising. -/
def Memory.wf {w : Nat} : Memory w → Bool
  | [] => true
  | (b, _) :: m => Memory.risingFrom m b

/-- Every listed index is below `n`. -/
def Memory.below {w : Nat} (m : Memory w) (n : Nat) : Bool := m.all (fun p => decide (p.1 < n))

end Sys2Proof.Machine
end

