-- ==== Sys2Proof/Machine/State.lean ====
section
/-! DEFINITION. The machine's state as plain data (spec/10_state.md), the host's accesses it runs (spec/20_memory.md R39,
spec/10_state.md R32), and the reasons a step can stop. -/

namespace Sys2Proof.Machine

/-- A cursor (spec/10_state.md R20). BUF[0..BUF_LEN-1] is `buf`, so BUF_LEN is its length; the characters beyond hold no
defined value (R23). -/
structure Cursor where
  buf     : List Byte
  pos     : Nat
  rem     : Sextet
  remBits : BitVec 3
deriving DecidableEq, Repr

/-- BUF_LEN, the number of characters stored (R20). -/
def Cursor.bufLen (c : Cursor) : Nat := c.buf.length

/-- The reassembly state RS (spec/10_state.md R24). -/
structure Rs where
  inProgress : Bool
  total      : Word
  lastIdx    : Word
  seq        : Word
  chan       : Byte
deriving DecidableEq, Repr

/-- The fields of STATUS but IN_PROGRESS, which is RS.IN_PROGRESS (spec/10_state.md R30). -/
structure Status where
  last       : BitVec 4
  badchar    : Bool
  overflow   : Bool
  fault      : Bool
  faultCause : BitVec 4
deriving DecidableEq, Repr

/-- What reaches the block from outside: the host's accesses (spec/20_memory.md R39) and the platform's reset input
(spec/70_reset_and_hazards.md R221). `width` is in bytes. -/
inductive Event where
  | read (addr width : Nat)
  | write (addr width : Nat) (v : Word)
  | hwReset
deriving DecidableEq, Repr

/-- The host (spec/10_state.md R32): the accesses still to come, in program order (spec/20_memory.md R47); the index of
the next access; and the words its reads have returned, the newest first. -/
structure HostSide where
  pending  : List Event
  position : Nat
  reads    : List Word
deriving DecidableEq, Repr

/-- The machine: the block's state, its configuration, the host's accesses, and the model's two draw counters. -/
structure State where
  /-- The configuration, which no step changes (spec/10_state.md R37; log entry 1). -/
  cfg     : Config
  /-- C0, the main cursor. -/
  c0      : Cursor
  /-- C1, the sub-cursor. -/
  c1      : Cursor
  /-- RS. -/
  rs      : Rs
  /-- TAG (R26). -/
  tag     : Sextet
  /-- ARG_A (R27). -/
  argA    : Word
  /-- ARG_B (R27). -/
  argB    : Word
  /-- LINE_LEN (R27). -/
  lineLen : Word
  /-- Y0 (R27). -/
  y0      : DWord
  /-- Y1 (R27). -/
  y1      : DWord
  /-- LINE, the elements written since the last reset (R28). -/
  lineMem : Memory 8
  /-- REC, the words written since the last reset (R29). -/
  recMem  : Memory 32
  /-- STATUS (R30). -/
  status  : Status
  /-- The host. -/
  host    : HostSide
  /-- MODEL'S OWN (log entry 4): the number of the last reset, which selects the draws unwritten elements hold. -/
  resets  : Nat
  /-- MODEL'S OWN (log entries 2 and 3): the number of the next draw. -/
  draws   : Nat
deriving DecidableEq, Repr

/-- The result codes of STATUS.LAST that have a name (spec/60_exceptions.md R205). -/
inductive ResultCode where
  | ok
  | complete
  | needMore
  | checksumFail
  | notAis
  | fieldErr
  | outOfSeq
  | unknownType
  | lengthErr
  /-- Reserved, never produced (spec/44_decoders.md R196). -/
  | callerErr
  | faulted
deriving DecidableEq, Repr

/-- The fault causes of STATUS.FAULT_CAUSE (spec/60_exceptions.md R207). -/
inductive FaultCause where
  | badOpcode
  | reservedBits
  | badWidth
  | badOperand
  | badLineLen
deriving DecidableEq, Repr

/-- The host is stuck: the spec gives the access no step (spec/20_memory.md R40, R41; spec/93_implementation_defined.md
I4; log entry 5). The faults of spec/60_exceptions.md are none of these: a faulted block goes on (R208, R209). -/
inductive Fault where
  /-- `perform`: a host access whose width is not 4 bytes (R40). Safe: nothing is proved of what follows. -/
  | accessWidth
  /-- `perform`: a host access at an offset that is no multiple of 4 (R40). Safe. -/
  | accessMisaligned
  /-- `perform`: a host access outside the mapped words of R33 (R41). Safe. -/
  | accessUnmapped
deriving DecidableEq, Repr

/-- What the model refuses (spec/00_scope.md R17). -/
inductive Refusal where
  /-- `exec`: an instruction without a meaning. No arm raises it. Safe. -/
  | notModelled (mnemonic : String)
  /-- `step`: the configuration breaks a constraint of R8. Safe. -/
  | illFormedConfig
  /-- `execDecode`: a known tag whose layout the configuration does not give (spec/44_decoders.md R187). Safe. -/
  | noLayout
deriving DecidableEq, Repr

/-- The outcome of a step. -/
abbrev Result := Host.Outcome State Fault Refusal

/-- A cursor after reset (spec/70_reset_and_hazards.md R226). -/
def Cursor.empty : Cursor := { buf := [], pos := 0, rem := 0#6, remBits := 0#3 }

/-- RS after reset, and whenever no reassembly is in progress (R226, spec/10_state.md R25). -/
def Rs.idle : Rs := { inProgress := false, total := 0#32, lastIdx := 0#32, seq := 0#32, chan := 0x00#8 }

/-- STATUS after reset (R226). -/
def Status.clear : Status :=
  { last := 0#4, badchar := false, overflow := false, fault := false, faultCause := 0#4 }

/-- The machine right after reset (R226): every register at its reset value, the arrays unwritten, the default
configuration, no host access to come. DESIGN CHOICE (log entry 20): the host's first access has index 0. -/
def State.reset : State :=
  { cfg := Config.default
    c0 := Cursor.empty
    c1 := Cursor.empty
    rs := Rs.idle
    tag := 0#6
    argA := 0#32
    argB := 0#32
    lineLen := 0#32
    y0 := 0#64
    y1 := 0#64
    lineMem := []
    recMem := []
    status := Status.clear
    host := { pending := [], position := 0, reads := [] }
    resets := 0
    draws := 0 }

end Sys2Proof.Machine
end

