-- ==== Sys2Proof/Machine/Operands.lean ====
section
/-! DEFINITION. Operands and results (spec/30_encoding.md R56, spec/00_scope.md R12, R13): the cursor a C field names, LINE
and REC elements, the extensions into Y0 and Y1, and the register updates the commands are written with. -/

namespace Sys2Proof.Machine

/-- `u32(x)`: an integer modulo 2^32 (R12). -/
def u32 (x : Int) : Word := BitVec.ofInt 32 x

/-- `s32(v)`: a 32-bit pattern as a two's-complement integer (R12). -/
def s32 (v : Word) : Int := v.toInt

/-- `zext_64` of a value that fits in 64 bits (R12). -/
def zext64 (n : Nat) : DWord := BitVec.ofNat 64 n

/-- `sext_64`: a 32-bit two's-complement value sign-extended (R12). -/
def sext64 (v : Word) : DWord := v.signExtend 64

/-- The cursor a C field names (R56). -/
def State.cursor (s : State) : CursorSel → Cursor
  | .c0 => s.c0
  | .c1 => s.c1

/-- Write the cursor a C field names. -/
def State.setCursor (s : State) (c : CursorSel) (x : Cursor) : State :=
  match c with
  | .c0 => { s with c0 := x }
  | .c1 => { s with c1 := x }

/-- RS <- r. -/
def State.setRs (s : State) (r : Rs) : State := { s with rs := r }

/-- TAG <- t. -/
def State.setTag (s : State) (t : Sextet) : State := { s with tag := t }

/-- Y0 <- v. -/
def State.setY0 (s : State) (v : DWord) : State := { s with y0 := v }

/-- Y1 <- v. -/
def State.setY1 (s : State) (v : DWord) : State := { s with y1 := v }

/-- LINE[i] (spec/10_state.md R28): the byte written since reset, else the draw of that reset
(spec/70_reset_and_hazards.md R226). -/
def State.lineByte (s : State) (i : Nat) : Byte := (s.lineMem.get? i).getD (Config.freeLine s.resets i)

/-- REC[i] (spec/10_state.md R29), as `lineByte`. -/
def State.recWord (s : State) (i : Nat) : Word := (s.recMem.get? i).getD (Config.freeRec s.resets i)

/-- LINE[i] <- v. -/
def State.putLine (s : State) (i : Nat) (v : Byte) : State := { s with lineMem := s.lineMem.put i v }

/-- REC[i] <- v. REC has REC_WORDS words; a well-formed layout names no other (spec/44_decoders.md R181). -/
def State.putRec (s : State) (i : Nat) (v : Word) : State :=
  if i < s.cfg.recWords then { s with recMem := s.recMem.put i v } else s

/-- REC[0..REC_WORDS-1] <- 0 (spec/44_decoders.md R175, R195). -/
def State.clearRec (s : State) : State := { s with recMem := Memory.fill s.cfg.recWords 0#32 }

/-- LINE[start..start+count-1]. -/
def State.lineRange (s : State) (start count : Nat) : List Byte :=
  (List.range count).map (fun i => s.lineByte (start + i))

end Sys2Proof.Machine
end

