-- ==== Sys2Proof/Machine/Binary64.lean ====
section
/-! DEFINITION. IEEE 754 binary64 as DEG and DEGMIN use it (spec/43_convert.md R162, R163): rounding a rational to the
nearest binary64 value, ties to even, and the bit pattern of the result. -/

namespace Sys2Proof.Machine

/-- A binary64 value that is no NaN, infinity or subnormal: (-1)^neg × man × 2^exp, with man = 0 or
2^52 ≤ man < 2^53. -/
structure Bin64 where
  neg : Bool
  man : Nat
  exp : Int
deriving DecidableEq, Repr

/-- n / d to the nearest integer, ties to even. -/
def divRne (n d : Nat) : Nat :=
  let q := n / d
  if 2 * (n % d) < d then q
  else if d < 2 * (n % d) then q + 1
  else if q % 2 = 0 then q else q + 1

/-- n × 2^k / d to the nearest integer, ties to even. -/
def scaleRne (n d : Nat) (k : Int) : Nat :=
  if 0 ≤ k then divRne (n * 2 ^ k.toNat) d else divRne n (d * 2 ^ (-k).toNat)

/-- n < d × 2^l. -/
def ratLtPow (n d : Nat) (l : Int) : Bool :=
  if 0 ≤ l then n < d * 2 ^ l.toNat else n * 2 ^ (-l).toNat < d

/-- The greatest e with 2^e ≤ n / d, for n and d positive. -/
def floorLog2 (n d : Nat) : Int :=
  let l : Int := (Nat.log2 n : Int) - (Nat.log2 d : Int)
  if ratLtPow n d l then l - 1 else l

/-- `RNE64(num / den)` (spec/00_scope.md R12), for den > 0 and a quotient that is 0 or in binary64's normal range; R162
says that no other arises. 0 rounds to +0. -/
def rne64 (num : Int) (den : Nat) : Bin64 :=
  if num = 0 then { neg := false, man := 0, exp := 0 }
  else
    let e := floorLog2 num.natAbs den
    let m := scaleRne num.natAbs den (52 - e)
    if m = 2 ^ 53 then { neg := num < 0, man := 2 ^ 52, exp := e - 51 }
    else { neg := num < 0, man := m, exp := e - 52 }

/-- `bits64(d)` (spec/00_scope.md R12): sign, exponent biased by 1023, fraction. -/
def bits64 (x : Bin64) : DWord :=
  if x.man = 0 then BitVec.ofBool x.neg ++ 0#63
  else BitVec.ofBool x.neg ++ BitVec.ofInt 11 (x.exp + 52 + 1023) ++ BitVec.ofNat 52 (x.man - 2 ^ 52)

/-- The numerator of the value over `Bin64.den`. -/
def Bin64.num (x : Bin64) : Int :=
  let m : Int := (x.man : Int) * 2 ^ x.exp.toNat
  if x.neg then -m else m

/-- The denominator of the value, a power of two. -/
def Bin64.den (x : Bin64) : Nat := 2 ^ (-x.exp).toNat

/-- `RNE64(whole + x)`: one binary64 addition of an integer, rounded once (R162). -/
def addInt64 (whole : Int) (x : Bin64) : Bin64 := rne64 (whole * (x.den : Int) + x.num) x.den

end Sys2Proof.Machine
end

