-- ==== Sys2Proof/Machine/Flags.lean ====
section
/-! DEFINITION. STATUS: result codes (spec/60_exceptions.md R205), fault causes (R207), the sticky flags and the word the
host reads (spec/10_state.md R30). -/

namespace Sys2Proof.Machine

/-- The value of a result code in STATUS.LAST (R205). -/
def ResultCode.code : ResultCode → BitVec 4
  | .ok => 0#4
  | .complete => 1#4
  | .needMore => 2#4
  | .checksumFail => 3#4
  | .notAis => 4#4
  | .fieldErr => 5#4
  | .outOfSeq => 6#4
  | .unknownType => 7#4
  | .lengthErr => 8#4
  | .callerErr => 9#4
  | .faulted => 15#4

/-- The value of a cause in STATUS.FAULT_CAUSE (R207). -/
def FaultCause.code : FaultCause → BitVec 4
  | .badOpcode => 1#4
  | .reservedBits => 2#4
  | .badWidth => 3#4
  | .badOperand => 4#4
  | .badLineLen => 5#4

/-- `status <- CODE` writes STATUS.LAST (spec/00_scope.md R12). -/
def State.setLast (s : State) (r : ResultCode) : State := { s with status := { s.status with last := r.code } }

/-- STATUS.BADCHAR <- b. -/
def State.setBadchar (s : State) (b : Bool) : State := { s with status := { s.status with badchar := b } }

/-- STATUS.OVERFLOW <- b. -/
def State.setOverflow (s : State) (b : Bool) : State := { s with status := { s.status with overflow := b } }

/-- The fault fields a fault with cause `k` writes, and nothing else (spec/60_exceptions.md R208). -/
def State.raiseFault (s : State) (k : FaultCause) : State :=
  { s with status := { s.status with fault := true, faultCause := k.code, last := ResultCode.faulted.code } }

/-- The STATUS word (spec/10_state.md R30): LAST [3:0], BADCHAR [8], OVERFLOW [9], IN_PROGRESS [12], FAULT [16],
FAULT_CAUSE [23:20], every other bit 0. -/
def State.statusWord (s : State) : Word :=
  0#8 ++ s.status.faultCause ++ 0#3 ++ BitVec.ofBool s.status.fault ++ 0#3 ++ BitVec.ofBool s.rs.inProgress ++ 0#2
    ++ BitVec.ofBool s.status.overflow ++ BitVec.ofBool s.status.badchar ++ 0#4 ++ s.status.last

end Sys2Proof.Machine
end

