-- ==== Sys2Proof/Machine/Ops.lean ====
section
/-! DEFINITION. The operations every command shares: being ignored while faulted (spec/60_exceptions.md R209), completing
with a result code (spec/00_scope.md R17), TAKING A FAULT (spec/60_exceptions.md R208, R212), and the reset that is the
one way back from it (R213, spec/70_reset_and_hazards.md R226). -/

namespace Sys2Proof.Machine

/-- A command's rule runs only in a block that is not faulted; a faulted one ignores it (R209). -/
def whenLive (s : State) (rule : Result) : Result := if s.status.fault then .next s else rule

/-- The command completes: the state its rule leaves, with STATUS.LAST (R17). -/
def completes (s : State) (r : ResultCode) : Result := .next (s.setLast r)

/-- `raise Fault(cause)` (R212): every assignment of the rule discarded, the fault fields of R208 written, the step ended.
`s` is the state the command found. -/
def raises (s : State) (k : FaultCause) : Result := .next (s.raiseFault k)

/-- The reset of R226, which the RESET command and the hardware reset share (R221): every register to its reset value, the
arrays to fresh draws (log entry 4), the configuration kept (R224), the host untouched. -/
def State.resetBlock (s : State) : State :=
  { s with
    c0 := Cursor.empty
    c1 := Cursor.empty
    rs := Rs.idle
    tag := 0#6
    argA := 0#32
    argB := 0#32
    lineLen := 0#32
    y0 := 0#64
    y1 := 0#64
    lineMem := []
    recMem := []
    status := Status.clear
    resets := s.resets + 1 }

end Sys2Proof.Machine
end

