-- ==== Sys2Proof/Machine/Cursor.lean ====
section
/-! DEFINITION. The bit cursor (spec/40_bitcursor.md): the armor table, the append, the fetch algorithm, sign recovery,
and the meanings of the BC commands. -/

namespace Sys2Proof.Machine

/-! ### The armor table (R102) -/

/-- `armor6(c)`, none where the character is invalid (R102). -/
def armor6 (c : Byte) : Option Sextet :=
  if 0x30 ≤ c.toNat ∧ c.toNat ≤ 0x57 then some (BitVec.ofNat 6 (c.toNat - 0x30))
  else if 0x60 ≤ c.toNat ∧ c.toNat ≤ 0x77 then some (BitVec.ofNat 6 (c.toNat - 0x38))
  else none

/-- `unarmor6(v)`, the inverse (R102). -/
def unarmor6 (v : Sextet) : Byte :=
  if v.toNat < 40 then BitVec.ofNat 8 (v.toNat + 0x30) else BitVec.ofNat 8 (v.toNat + 0x38)

/-- `signrec(value, mask)` on mathematical integers (spec/43_convert.md R156). -/
def signrecInt (value mask : Nat) : Int :=
  if value &&& mask ≠ 0 then (value : Int) - 2 * (mask : Int) else (value : Int)

/-! ### State changes of one cursor -/

/-- BC_INIT's change: back to the first stored character (R103). -/
def Cursor.rewind (c : Cursor) : Cursor := { c with pos := 0, rem := 0#6, remBits := 0#3 }

/-- BC_LENGTH's value: remainder + 6 × unconsumed characters (R115). -/
def Cursor.length (c : Cursor) : Nat := c.remBits.toNat + 6 * (c.bufLen - c.pos)

/-- `append_char(C, c)` (R106): dropped at CAP_CHARS, with STATUS.OVERFLOW set. -/
def State.appendChar (s : State) (c : CursorSel) (b : Byte) : State :=
  if (s.cursor c).bufLen < s.cfg.capChars then
    s.setCursor c { s.cursor c with buf := (s.cursor c).buf ++ [b] }
  else s.setOverflow true

/-- `append_char` of each byte in order (R105, R138). -/
def State.appendAll (s : State) (c : CursorSel) (bs : List Byte) : State :=
  bs.foldl (fun t b => t.appendChar c b) s

/-! ### The fetch algorithm (R109) -/

/-- What a fetch changes: the cursor, the next draw's number and STATUS.BADCHAR. -/
structure FetchSt where
  cur     : Cursor
  draws   : Nat
  badchar : Bool
deriving DecidableEq, Repr

/-- `group(c)` (R110): the table's group, or a fresh draw with BADCHAR set. -/
def group (c : Byte) (f : FetchSt) : Sextet × FetchSt :=
  match armor6 c with
  | some g => (g, f)
  | none => (Config.freeGroup f.draws, { f with draws := f.draws + 1, badchar := true })

/-- The last group of a fetch that ends inside it: its low `k` bits are held (R109). -/
def Cursor.hold (c : Cursor) (g k : Nat) : Cursor :=
  { c with rem := BitVec.ofNat 6 (g % 2 ^ k), remBits := BitVec.ofNat 3 k }

/-- The while loop of R109: `r` so far, `need` bits to go. `fuel` bounds the rounds; `need` rounds always do. -/
def fetchLoop : (fuel need r : Nat) → FetchSt → Nat × FetchSt
  | 0, _, r, f => (r, f)
  | fuel + 1, need, r, f =>
    if need = 0 then (r, f)
    else
      match f.cur.buf[f.cur.pos]? with
      | none => (r * 2 ^ need, f)
      | some ch =>
        let p := group ch { f with cur := { f.cur with pos := f.cur.pos + 1 } }
        if 6 ≤ need then fetchLoop fuel (need - 6) (r * 64 + p.1.toNat) p.2
        else (r * 2 ^ need + p.1.toNat / 2 ^ (6 - need), { p.2 with cur := p.2.cur.hold p.1.toNat (6 - need) })

/-- `fetch(C, n)` of R109: the remainder first, then the loop. -/
def fetchBits (n : Nat) (f : FetchSt) : Nat × FetchSt :=
  let held := f.cur.remBits.toNat
  if held = 0 then fetchLoop n n 0 f
  else if held ≤ n then
    fetchLoop n (n - held) f.cur.rem.toNat { f with cur := { f.cur with rem := 0#6, remBits := 0#3 } }
  else
    (f.cur.rem.toNat / 2 ^ (held - n), { f with cur := f.cur.hold f.cur.rem.toNat (held - n) })

/-- `fetch(C, n)` on the machine: the value and the state it leaves. -/
def State.fetch (s : State) (c : CursorSel) (n : Nat) : Nat × State :=
  let p := fetchBits n { cur := s.cursor c, draws := s.draws, badchar := s.status.badchar }
  (p.1, { (s.setCursor c p.2.cur).setBadchar p.2.badchar with draws := p.2.draws })

/-- BC_SNAPSHOT's change: C1 gets its own copy of C0 (R117). -/
def State.snapshot (s : State) : State := s.setCursor .c1 s.c0

/-! ### The commands -/

/-- BC_INIT C (R103). -/
def execBcInit (c : CursorSel) (s : State) : Result :=
  whenLive s (completes (s.setCursor c (s.cursor c).rewind) .ok)

/-- BC_CLEAR C (R104). -/
def execBcClear (c : CursorSel) (s : State) : Result :=
  whenLive s (completes (s.setCursor c Cursor.empty) .ok)

/-- BC_APPEND C (R105): LINE[ARG_A .. ARG_A + ARG_B - 1]; BAD_OPERAND where the range leaves LINE. -/
def execBcAppend (c : CursorSel) (s : State) : Result :=
  whenLive s
    (if s.argA.toNat + s.argB.toNat > s.cfg.lineCap then raises s .badOperand
     else completes (s.appendAll c (s.lineRange s.argA.toNat s.argB.toNat)) .ok)

/-- BC_FETCH C, n (R107, R108). -/
def execBcFetch (c : CursorSel) (n : Sextet) (s : State) : Result :=
  whenLive s
    (if widthOk n then
      completes ((s.fetch c n.toNat).2.setY0 (zext64 (s.fetch c n.toNat).1)) .ok
     else raises s .badWidth)

/-- BC_FETCHS C, n (R113): a fetch, then sign recovery at the field's top bit. -/
def execBcFetchs (c : CursorSel) (n : Sextet) (s : State) : Result :=
  whenLive s
    (if widthOk n then
      completes ((s.fetch c n.toNat).2.setY0
        (sext64 (u32 (signrecInt (s.fetch c n.toNat).1 (2 ^ (n.toNat - 1)))))) .ok
     else raises s .badWidth)

/-- BC_LENGTH C (R115). -/
def execBcLength (c : CursorSel) (s : State) : Result :=
  whenLive s (completes (s.setY0 (zext64 (s.cursor c).length)) .ok)

/-- BC_SNAPSHOT (R117). -/
def execBcSnapshot (s : State) : Result := whenLive s (completes s.snapshot .ok)

end Sys2Proof.Machine
end

