-- ==== Sys2Proof/Machine/Convert.lean ====
section
/-! DEFINITION. The converters and the meanings of their commands (spec/43_convert.md). -/

namespace Sys2Proof.Machine

/-- `signrec(lat, 0x4000000)` of a 27-bit latitude (R159). -/
def lat27Of (raw : Nat) : Int := signrecInt raw 0x4000000

/-- `signrec(lon, 0x8000000)` of a 28-bit longitude (R159). -/
def lon28Of (raw : Nat) : Int := signrecInt raw 0x8000000

/-- `1000 * signrec(lat, 0x10000)` of a 17-bit latitude (R160). -/
def lat17Of (raw : Nat) : Int := 1000 * signrecInt raw 0x10000

/-- `1000 * signrec(lon, 0x20000)` of an 18-bit longitude (R160). -/
def lon18Of (raw : Nat) : Int := 1000 * signrecInt raw 0x20000

/-- `ascii6(v)` (R165): the low 6 bits, plus 0x40 below 0x20. -/
def ascii6 (v : Nat) : Nat := if v % 64 < 0x20 then v % 64 + 0x40 else v % 64

/-- `trunc(v / 600000)` (R162). -/
def degWhole (v : Int) : Int := v.tdiv 600000

/-- `v - whole * 600000` (R162). -/
def degRem (v : Int) : Int := v - degWhole v * 600000

/-- DEG's result, rounded twice: the fraction, then the sum (R162). -/
def degOf (v : Int) : Bin64 := addInt64 (degWhole v) (rne64 (degRem v) 600000)

/-- DEGMIN's minutes, rounded once (R163). -/
def minutesOf (v : Int) : Bin64 := rne64 ((degRem v).natAbs : Int) 10000

/-- SIGNREC (R157): value ARG_A, mask ARG_B; BAD_OPERAND where the mask is no single bit or the value is wider. -/
def execSignrec (s : State) : Result :=
  whenLive s
    (if s.argB = 0#32 ∨ s.argB &&& (s.argB - 1#32) ≠ 0#32 then raises s .badOperand
     else if s.argA.toNat ≥ 2 * s.argB.toNat then raises s .badOperand
     else completes (s.setY0 (sext64 (u32 (signrecInt s.argA.toNat s.argB.toNat)))) .ok)

/-- POSREC (R159). -/
def execPosrec (s : State) : Result :=
  whenLive s
    (if s.argA.toNat ≥ 2 ^ 27 ∨ s.argB.toNat ≥ 2 ^ 28 then raises s .badOperand
     else completes ((s.setY0 (sext64 (u32 (lat27Of s.argA.toNat)))).setY1
       (sext64 (u32 (lon28Of s.argB.toNat)))) .ok)

/-- POSREC27 (R160). -/
def execPosrec27 (s : State) : Result :=
  whenLive s
    (if s.argA.toNat ≥ 2 ^ 17 ∨ s.argB.toNat ≥ 2 ^ 18 then raises s .badOperand
     else completes ((s.setY0 (sext64 (u32 (lat17Of s.argA.toNat)))).setY1
       (sext64 (u32 (lon18Of s.argB.toNat)))) .ok)

/-- DEG (R162). -/
def execDeg (s : State) : Result :=
  whenLive s (completes (s.setY0 (bits64 (degOf (s32 s.argA)))) .ok)

/-- DEGMIN (R163). -/
def execDegmin (s : State) : Result :=
  whenLive s (completes ((s.setY0 (bits64 (minutesOf (s32 s.argA)))).setY1
    (sext64 (u32 (degWhole (s32 s.argA))))) .ok)

/-- ASCII6 (R166). -/
def execAscii6 (s : State) : Result :=
  whenLive s (completes (s.setY0 (zext64 (ascii6 s.argA.toNat))) .ok)

/-- ARMOR6's value (R168): the group, or the all-ones sentinel. -/
def armorResult (c : Byte) : DWord :=
  match armor6 c with
  | some g => zext64 g.toNat
  | none => 0xFFFFFFFFFFFFFFFF#64

/-- ARMOR6 (R168), of ARG_A[7:0]. -/
def execArmor6 (s : State) : Result :=
  whenLive s (completes (s.setY0 (armorResult (s.argA.extractLsb' 0 8))) .ok)

end Sys2Proof.Machine
end

