-- ==== Sys2Proof/Machine/Dispatcher.lean ====
section
/-! DEFINITION. The message-type dispatcher: the meaning of DISPATCH (spec/42_dispatch.md). -/

namespace Sys2Proof.Machine

/-- `t <- fetch(C0, 6) ; TAG <- t ; Y0 <- zext_64(t)`: the tag, and the state that holds it (R149,
spec/44_decoders.md R184). -/
def State.readTag (s : State) : Nat × State :=
  ((s.fetch .c0 6).1,
    ((s.fetch .c0 6).2.setTag (BitVec.ofNat 6 (s.fetch .c0 6).1)).setY0 (zext64 (s.fetch .c0 6).1))

/-- DISPATCH (R149), from C0's current position. -/
def execDispatch (s : State) : Result :=
  whenLive s (completes s.readTag.2 (if s.cfg.known s.readTag.1 then .ok else .unknownType))

end Sys2Proof.Machine
end

