-- ==== Sys2Proof/Machine/Decoder.lean ====
section
/-! DEFINITION. The layout-driven decoder: descriptors (spec/44_decoders.md R177, R178, R188, R192) and the meanings of
DECODE and REC_CLEAR (R184, R195). -/

namespace Sys2Proof.Machine

/-- `REC[t] <- f(fetch(w))`. -/
def State.fetchTo (s : State) (w t : Nat) (f : Nat → Word) : State :=
  (s.fetch .c0 w).2.putRec t (f (s.fetch .c0 w).1)

/-- `skip(w)` (R177): `fetch(min(w, 32))` until w bits are consumed; `fuel` bounds the rounds, and w always do. -/
def State.skipBits : (fuel w : Nat) → State → State
  | 0, _, s => s
  | fuel + 1, w, s =>
    if w = 0 then s else State.skipBits fuel (w - min w 32) (s.fetch .c0 (min w 32)).2

/-- TEXT(k, s) (R178, R182): characters j to j + k - 1 from slot t on. -/
def State.textTo : (k t : Nat) → State → State
  | 0, _, s => s
  | k + 1, t, s => State.textTo k (t + 1) (s.fetchTo 6 t (fun v => BitVec.ofNat 32 (ascii6 v)))

/-- REPEAT's loop (R188), `run base` being one pass of sub: from pass i on, at most `rounds` more. It answers N and the
state. -/
def repeatLoop (run : Nat → State → State) (width base stride : Nat) : (rounds i : Nat) → State → Nat × State
  | 0, i, s => (i, s)
  | rounds + 1, i, s =>
    if width ≤ s.c0.length then repeatLoop run width base stride rounds (i + 1) (run (base + i * stride) s)
    else (i, s)

/-- RESIDUAL (R192): the residual length, and the copy of C0. -/
def State.residualTo (s : State) (t : Nat) : State := (s.putRec t (BitVec.ofNat 32 s.c0.length)).snapshot

mutual
/-- `run(d, base)` (R178). -/
def runDesc : Desc → (base : Nat) → State → State
  | .u w t, base, s => s.fetchTo w (base + t) (fun v => BitVec.ofNat 32 v)
  | .s w t, base, s => s.fetchTo w (base + t) (fun v => u32 (signrecInt v (2 ^ (w - 1))))
  | .lat27 t, base, s => s.fetchTo 27 (base + t) (fun v => u32 (lat27Of v))
  | .lon28 t, base, s => s.fetchTo 28 (base + t) (fun v => u32 (lon28Of v))
  | .lat17 t, base, s => s.fetchTo 17 (base + t) (fun v => u32 (lat17Of v))
  | .lon18 t, base, s => s.fetchTo 18 (base + t) (fun v => u32 (lon18Of v))
  | .text k t, base, s => State.textTo k (base + t) s
  | .skip w, _, s => State.skipBits w w s
  | .flagor t m, base, s => s.putRec (base + t) (s.recWord (base + t) ||| m)
  | .sel f d0 d1, base, s => if s.recWord (base + f) = 0#32 then runDescs d0 base s else runDescs d1 base s
  | .case f arms dflt, base, s => runArms arms (s.recWord (base + f)) (runDescs dflt base) base s
  | .rept c max sub stride, base, s =>
    let p := repeatLoop (runDescs sub) sub.width base stride max 0 s
    p.2.putRec (base + c) (BitVec.ofNat 32 p.1)
  | .residual t, base, s => s.residualTo (base + t)
/-- The descriptors in list order (R176). -/
def runDescs : Descs → (base : Nat) → State → State
  | .nil, _, s => s
  | .cons d ds, base, s => runDescs ds base (runDesc d base s)
/-- The first arm whose value equals `v`, else `dflt` (R178). -/
def runArms : Arms → (v : Word) → (dflt : State → State) → (base : Nat) → State → State
  | .nil, _, dflt, _, s => dflt s
  | .cons value ds rest, v, dflt, base, s => if value = v then runDescs ds base s else runArms rest v dflt base s
end

/-- DECODE with the tag read and its layout found: the length rule, the zero-fill, the descriptors (R184). -/
def State.decodeWith (s : State) (tag len : Nat) (l : Layout) : State :=
  if l.len.ok len then
    (runDescs l.descs 0 ((if l.zeroFill then s.clearRec else s).putRec 0 (BitVec.ofNat 32 tag))).setLast .ok
  else s.setLast .lengthErr

/-- DECODE's first steps: C0 rewound, the tag read into TAG and Y0 (R184). -/
def State.decodeTag (s : State) : Nat × State := (s.setCursor .c0 s.c0.rewind).readTag

/-- DECODE (R184); L is the armored length of the payload (R185). -/
def execDecode (s : State) : Result :=
  whenLive s
    (if s.cfg.known s.decodeTag.1 then
      match s.cfg.layoutOf s.decodeTag.1 with
      | none => .refused .noLayout
      | some l => .next (s.decodeTag.2.decodeWith s.decodeTag.1 (6 * s.c0.bufLen) l)
     else completes s.decodeTag.2 .unknownType)

/-- REC_CLEAR (R195). -/
def execRecClear (s : State) : Result := whenLive s (completes s.clearRec .ok)

end Sys2Proof.Machine
end

