-- ==== Sys2Proof/Machine/Framer.lean ====
section
/-! DEFINITION. The sentence framer (spec/41_reassembler.md R120 to R132): a line of bytes to a fragment or a framing
result. -/

namespace Sys2Proof.Machine

/-- A fragment the framer accepted (R120). -/
structure Fragment where
  total   : Word
  idx     : Word
  seq     : Word
  chan    : Byte
  payload : List Byte
deriving DecidableEq, Repr

/-- A start marker, '!' or '$' (R125). -/
def isStart (b : Byte) : Bool := b == 0x21#8 || b == 0x24#8

/-- `start(L)`: the least index of a start marker (R125). -/
def findStart : List Byte → Option Nat
  | [] => none
  | b :: l => if isStart b then some 0 else (findStart l).map (· + 1)

/-- `check_type(L, m)`: L[m+3..m+5] is "VDM" or "VDO", and lies inside the line (R126). -/
def typeOk (l : List Byte) (m : Nat) : Bool :=
  l[m + 3]? == some 0x56#8 && l[m + 4]? == some 0x44#8 &&
    (l[m + 5]? == some 0x4D#8 || l[m + 5]? == some 0x4F#8)

/-- The value of a hexadecimal digit of either case, none for another byte (R128). -/
def hexVal (b : Byte) : Option Nat :=
  if 0x30 ≤ b.toNat ∧ b.toNat ≤ 0x39 then some (b.toNat - 0x30)
  else if 0x41 ≤ b.toNat ∧ b.toNat ≤ 0x46 then some (b.toNat - 0x41 + 10)
  else if 0x61 ≤ b.toNat ∧ b.toNat ≤ 0x66 then some (b.toNat - 0x61 + 10)
  else none

/-- L[m+1..s-1], for s the least index of '*' above m (R128). -/
def bodyOf (l : List Byte) (m : Nat) : List Byte := (l.drop (m + 1)).takeWhile (fun b => b != 0x2A#8)

/-- The XOR of all bytes (R128). -/
def xorBytes (l : List Byte) : Byte := l.foldl (fun a b => a ^^^ b) 0#8

/-- `check_sum(L, m)` (R128): the body before the '*', where the two digits after it match. -/
def checkSum (l : List Byte) (m : Nat) : Option (List Byte) :=
  let body := bodyOf l m
  let s := m + 1 + body.length
  match l[s]?, (l[s + 1]?).bind hexVal, (l[s + 2]?).bind hexVal with
  | some _, some hi, some lo => if (xorBytes body).toNat = 16 * hi + lo then some body else none
  | _, _, _ => none

/-- The fields between the ',' bytes of a body (R129); a body with j commas has j + 1. -/
def splitFields : List Byte → List (List Byte)
  | [] => [[]]
  | b :: l =>
    if b = 0x2C#8 then [] :: splitFields l
    else
      match splitFields l with
      | [] => [[b]]
      | f :: fs => (b :: f) :: fs

/-- The decimal value of a digit string read on from `acc`, none at a byte that is no digit (R130). -/
def decimal : List Byte → Nat → Option Nat
  | [], acc => some acc
  | b :: l, acc =>
    if 0x30 ≤ b.toNat ∧ b.toNat ≤ 0x39 then decimal l (acc * 10 + (b.toNat - 0x30)) else none

/-- `uint(F)` (R130): an empty field is 0; a value above 2^32 - 1 fails. -/
def uint (f : List Byte) : Option Word :=
  match decimal f 0 with
  | some v => if v < 2 ^ 32 then some (BitVec.ofNat 32 v) else none
  | none => none

/-- The channel of R131: the first byte of the field, 0x00 if there is none. -/
def chanOf (f : List Byte) : Byte := f.headD 0x00#8

/-- `fields(L, m, s)` (R129 to R132), none where the result is FIELD_ERR. -/
def fragmentOf (body : List Byte) : Option Fragment :=
  match splitFields body with
  | _ :: f1 :: f2 :: f3 :: f4 :: f5 :: _ =>
    match uint f1, uint f2, uint f3 with
    | some total, some idx, some seq =>
      some { total := total, idx := idx, seq := seq, chan := chanOf f4, payload := f5 }
    | _, _, _ => none
  | _ => none

/-- The framer steps of R124, in their order. -/
def frame (l : List Byte) : Except ResultCode Fragment :=
  match findStart l with
  | none => .error .notAis
  | some m =>
    if typeOk l m then
      match checkSum l m with
      | none => .error .checksumFail
      | some body =>
        match fragmentOf body with
        | none => .error .fieldErr
        | some f => .ok f
    else .error .notAis

end Sys2Proof.Machine
end

