-- ==== Sys2Proof/Machine/Reassembler.lean ====
section
/-! DEFINITION. The reassembly state machine and the meanings of FEED and RS_RESET (spec/41_reassembler.md). -/

namespace Sys2Proof.Machine

/-- BC_CLEAR(C0) and RS at its idle value: `discard()` (R137), and the two first steps of RS_RESET (R143). -/
def State.discard (s : State) : State := (s.setCursor .c0 Cursor.empty).setRs Rs.idle

/-- An in-progress reassembly is continued by this fragment (R136). -/
def Rs.continuedBy (r : Rs) (f : Fragment) : Bool :=
  f.total == r.total && f.seq == r.seq && f.chan == r.chan && f.idx.toNat == r.lastIdx.toNat + 1

/-- An accepted fragment (R133): its payload appended (R138), its index recorded (R141), then complete (R139) or more
needed (R140). The completion test reads the fragment's own total and the recorded RS.TOTAL. -/
def State.accept (s : State) (f : Fragment) : State :=
  let t := s.appendAll .c0 f.payload
  if f.total = 0#32 ∨ f.idx = t.rs.total then (t.setRs Rs.idle).setLast .complete
  else (t.setRs { t.rs with inProgress := true, lastIdx := f.idx }).setLast .needMore

/-- `reassemble(total, idx, seq, chan, payload)` (R133). -/
def State.reassemble (s : State) (f : Fragment) : State :=
  if s.rs.inProgress then
    if s.rs.continuedBy f then s.accept f
    else s.discard.setLast .outOfSeq
  else if f.idx ≠ 1#32 then s.setLast .outOfSeq
  else
    ((s.setCursor .c0 Cursor.empty).setRs { s.rs with total := f.total, seq := f.seq, chan := f.chan }).accept f

/-- FEED (R124): the line LINE[0..LINE_LEN-1] through the framer, then the reassembler. -/
def execFeed (s : State) : Result :=
  whenLive s
    (if s.lineLen.toNat > s.cfg.lineCap then raises s .badLineLen
     else
      match frame (s.lineRange 0 s.lineLen.toNat) with
      | .error r => completes s r
      | .ok f => .next (s.reassemble f))

/-- RS_RESET (R143). -/
def execRsReset (s : State) : Result := whenLive s (completes (s.discard.setTag 0#6) .ok)

end Sys2Proof.Machine
end

