-- ==== Sys2Proof/Machine/System.lean ====
section
/-! DEFINITION. The system commands (spec/45_system.md). -/

namespace Sys2Proof.Machine

/-- NOP (R201). -/
def execNop (s : State) : Result := whenLive s (completes s .ok)

/-- RESET (R202): the reset of R226, the only command a faulted block accepts. -/
def execReset (s : State) : Result := .next s.resetBlock

/-- CLRFLAGS (R203). -/
def execClrflags (s : State) : Result :=
  whenLive s (completes ((s.setBadchar false).setOverflow false) .ok)

end Sys2Proof.Machine
end

