-- ==== Sys2Proof/Machine/Dispatch.lean ====
section
/-! DEFINITION. One arm per command (spec/30_encoding.md R58). -/

namespace Sys2Proof.Machine

def exec (i : Instr) (s : State) : Host.Outcome State Fault Refusal :=
  match i with
  | .nop => Sys2Proof.Machine.execNop s
  | .reset => Sys2Proof.Machine.execReset s
  | .clrflags => Sys2Proof.Machine.execClrflags s
  | .bcInit c => Sys2Proof.Machine.execBcInit c s
  | .bcClear c => Sys2Proof.Machine.execBcClear c s
  | .bcAppend c => Sys2Proof.Machine.execBcAppend c s
  | .bcFetch c n => Sys2Proof.Machine.execBcFetch c n s
  | .bcFetchs c n => Sys2Proof.Machine.execBcFetchs c n s
  | .bcLength c => Sys2Proof.Machine.execBcLength c s
  | .bcSnapshot => Sys2Proof.Machine.execBcSnapshot s
  | .feed => Sys2Proof.Machine.execFeed s
  | .rsReset => Sys2Proof.Machine.execRsReset s
  | .dispatch => Sys2Proof.Machine.execDispatch s
  | .decode => Sys2Proof.Machine.execDecode s
  | .recClear => Sys2Proof.Machine.execRecClear s
  | .signrec => Sys2Proof.Machine.execSignrec s
  | .posrec => Sys2Proof.Machine.execPosrec s
  | .posrec27 => Sys2Proof.Machine.execPosrec27 s
  | .deg => Sys2Proof.Machine.execDeg s
  | .degmin => Sys2Proof.Machine.execDegmin s
  | .ascii6 => Sys2Proof.Machine.execAscii6 s
  | .armor6 => Sys2Proof.Machine.execArmor6 s

end Sys2Proof.Machine
end

