-- ==== Sys2Proof/Machine/HostMap.lean ====
section
/-! DEFINITION. The register map (spec/10_state.md R33): which word an offset names, what a read returns and what a write
to any word but CMD does (R34, spec/20_memory.md R39 to R42). -/

namespace Sys2Proof.Machine

/-- A mapped word of the host window (R33). -/
inductive Port where
  | cmd
  | argA
  | argB
  | lineLen
  | y0Lo
  | y0Hi
  | y1Lo
  | y1Hi
  | status
  | tag
  | rsTotal
  | rsLast
  | rsSeq
  | rsChan
  | curPos (c : CursorSel)
  | curLen (c : CursorSel)
  | curRem (c : CursorSel)
  | line (i : Nat)
  | curBuf (c : CursorSel) (i : Nat)
  | recWord (i : Nat)
deriving DecidableEq, Repr

/-- The offset column of R33. -/
def Port.offset : Port → Nat
  | .cmd => 0x0000
  | .argA => 0x0004
  | .argB => 0x0008
  | .lineLen => 0x000C
  | .y0Lo => 0x0010
  | .y0Hi => 0x0014
  | .y1Lo => 0x0018
  | .y1Hi => 0x001C
  | .status => 0x0020
  | .tag => 0x0024
  | .rsTotal => 0x0028
  | .rsLast => 0x002C
  | .rsSeq => 0x0030
  | .rsChan => 0x0034
  | .curPos .c0 => 0x0040
  | .curLen .c0 => 0x0044
  | .curRem .c0 => 0x0048
  | .curPos .c1 => 0x0050
  | .curLen .c1 => 0x0054
  | .curRem .c1 => 0x0058
  | .line i => 0x1000 + 4 * i
  | .curBuf .c0 i => 0x2000 + 4 * i
  | .curBuf .c1 i => 0x3000 + 4 * i
  | .recWord i => 0x4000 + 4 * i

/-- The registers of R33, the arrays apart. -/
def registerPorts : List Port :=
  [ .cmd, .argA, .argB, .lineLen, .y0Lo, .y0Hi, .y1Lo, .y1Hi, .status, .tag, .rsTotal, .rsLast, .rsSeq, .rsChan,
    .curPos .c0, .curLen .c0, .curRem .c0, .curPos .c1, .curLen .c1, .curRem .c1 ]

/-- The element of an array window of `n` words from offset `lo` on that an offset names. -/
def windowIndex (lo n off : Nat) : Option Nat :=
  if lo ≤ off ∧ off < lo + 4 * n ∧ off % 4 = 0 then some ((off - lo) / 4) else none

/-- The mapped word at an offset that is a multiple of 4, none where the offset is unmapped (R33, R41). -/
def portAt (c : Config) (off : Nat) : Option Port :=
  match registerPorts.find? (fun p => p.offset == off) with
  | some p => some p
  | none =>
    match windowIndex 0x1000 c.lineCap off with
    | some i => some (.line i)
    | none =>
      match windowIndex 0x2000 c.capChars off with
      | some i => some (.curBuf .c0 i)
      | none =>
        match windowIndex 0x3000 c.capChars off with
        | some i => some (.curBuf .c1 i)
        | none => (windowIndex 0x4000 c.recWords off).map .recWord

/-- The word a host access of `width` bytes at `addr` names, or why the host is stuck (R40, R41); every address is
BASE + offset (R46). -/
def locate (c : Config) (addr width : Nat) : Except Fault Port :=
  if width ≠ 4 then .error .accessWidth
  else if addr < c.base then .error .accessUnmapped
  else if (addr - c.base) % 4 ≠ 0 then .error .accessMisaligned
  else
    match portAt c (addr - c.base) with
    | some p => .ok p
    | none => .error .accessUnmapped

/-- C_REM: REM [5:0], REM_BITS [10:8], other bits 0 (R33). -/
def Cursor.remWord (c : Cursor) : Word := 0#21 ++ c.remBits ++ 0#2 ++ c.rem

/-- The word at a port (R33). A cursor character at or beyond BUF_LEN is a draw (R23). -/
def State.portWord (s : State) : Port → Word
  | .cmd => 0#32
  | .argA => s.argA
  | .argB => s.argB
  | .lineLen => s.lineLen
  | .y0Lo => s.y0.extractLsb' 0 32
  | .y0Hi => s.y0.extractLsb' 32 32
  | .y1Lo => s.y1.extractLsb' 0 32
  | .y1Hi => s.y1.extractLsb' 32 32
  | .status => s.statusWord
  | .tag => s.tag.setWidth 32
  | .rsTotal => s.rs.total
  | .rsLast => s.rs.lastIdx
  | .rsSeq => s.rs.seq
  | .rsChan => s.rs.chan.setWidth 32
  | .curPos c => BitVec.ofNat 32 (s.cursor c).pos
  | .curLen c => BitVec.ofNat 32 (s.cursor c).bufLen
  | .curRem c => (s.cursor c).remWord
  | .line i => (s.lineByte i).setWidth 32
  | .curBuf c i => (((s.cursor c).buf[i]?).getD (Config.freeBufByte s.draws)).setWidth 32
  | .recWord i => s.recWord i

/-- Reading this port takes a fresh draw: a cursor character at or beyond BUF_LEN (R42). -/
def State.drawsAt (s : State) : Port → Bool
  | .curBuf c i => (s.cursor c).bufLen ≤ i
  | _ => false

/-- `MemRead` of a mapped word: the host gets the word; no state of the block changes (R42). -/
def State.hostRead (s : State) (p : Port) : State :=
  { s with
    host := { s.host with reads := s.portWord p :: s.host.reads }
    draws := if s.drawsAt p then s.draws + 1 else s.draws }

/-- `MemWrite` to a mapped word other than CMD (R34): a read-write register stores every bit, a LINE word bits [7:0],
and a read-only word ignores the write. -/
def State.hostWrite (s : State) (p : Port) (v : Word) : State :=
  match p with
  | .argA => { s with argA := v }
  | .argB => { s with argB := v }
  | .lineLen => { s with lineLen := v }
  | .line i => s.putLine i (v.extractLsb' 0 8)
  | .recWord i => s.putRec i v
  | .cmd => s
  | .y0Lo => s
  | .y0Hi => s
  | .y1Lo => s
  | .y1Hi => s
  | .status => s
  | .tag => s
  | .rsTotal => s
  | .rsLast => s
  | .rsSeq => s
  | .rsChan => s
  | .curPos _ => s
  | .curLen _ => s
  | .curRem _ => s
  | .curBuf _ _ => s

end Sys2Proof.Machine
end

