-- ==== Sys2Proof/Machine/Bus.lean ====
section
/-! DEFINITION. What one event does: a word written to CMD (spec/30_encoding.md R57), a host access
(spec/20_memory.md R39 to R42), the hardware reset (spec/70_reset_and_hazards.md R221). -/

namespace Sys2Proof.Machine

/-- The fault a word that is no command raises (R57). -/
def causeOf : DecodeError → FaultCause
  | .badOpcode => .badOpcode
  | .reservedBits => .reservedBits
  | .badWidth => .badWidth

/-- A write of word `w` to CMD (R57). A faulted block ignores an illegal word here, and a command in its meaning, RESET
apart (spec/60_exceptions.md R209). -/
def issue (w : Word) (s : State) : Result :=
  match decode w with
  | .ok i => exec i s
  | .error e => whenLive s (raises s (causeOf e))

/-- One access of the host done: its position advances by one (spec/10_state.md R32). -/
def State.advance (s : State) : State := { s with host := { s.host with position := s.host.position + 1 } }

/-- One event, already taken from the host's pending ones. -/
def perform (e : Event) (s : State) : Result :=
  match e with
  | .hwReset => .next s.resetBlock
  | .read addr width =>
    match locate s.cfg addr width with
    | .error f => .fault f
    | .ok p => .next (s.advance.hostRead p)
  | .write addr width v =>
    match locate s.cfg addr width with
    | .error f => .fault f
    | .ok .cmd => issue v s.advance
    | .ok p => .next (s.advance.hostWrite p v)

/-- The first pending event taken. -/
def State.popped (s : State) (rest : List Event) : State := { s with host := { s.host with pending := rest } }

/-- The next event in host program order (spec/20_memory.md R47), to completion. The block never steps on its own
(spec/00_scope.md R15): with no event to come, nothing changes (log entry 6). -/
def runNext (s : State) : Result :=
  match s.host.pending with
  | [] => .next s
  | e :: rest => perform e (s.popped rest)

/-- An event put before the host's pending ones. -/
def State.push (s : State) (e : Event) : State := { s with host := { s.host with pending := e :: s.host.pending } }

/-- The word `w` of `nbits` bits as the host's next access, a write to CMD (log entry 7). -/
def pushFetchWord (s : State) (nbits w : Nat) : State :=
  s.push (.write (s.cfg.base + Port.cmd.offset) 4 (BitVec.ofNat 32 (w % 2 ^ nbits)))

end Sys2Proof.Machine
end

