-- ==== Sys2Proof/Machine/Step.lean ====
section
/-! DEFINITION. The step: one event of the host or the platform (spec/00_scope.md R15). An ill-formed configuration is
refused (R8, R17). -/

namespace Sys2Proof.Machine

/-- One step. -/
def step (s : State) : Host.Outcome State Fault Refusal :=
  if s.cfg.wf then runNext s else .refused .illFormedConfig

/-- `s` with the command word `w` as the host's next access, so that the next step executes it. -/
def State.withFetchWord (s : State) (nbits w : Nat) : State := pushFetchWord s nbits w

end Sys2Proof.Machine
end

