-- ==== Sys2Proof/Machine/HostProgram.lean ====
section
/-! DEFINITION. The host program syntax and its pseudo-instructions as accesses (spec/30_encoding.md R61, R62). -/

namespace Sys2Proof.Machine

/-- `W <name>, <value>` (R61). -/
def asmW (c : Config) (p : Port) (v : Word) : Event := .write (c.base + p.offset) 4 v

/-- `R <name>` (R61). -/
def asmR (c : Config) (p : Port) : Event := .read (c.base + p.offset) 4

/-- A command statement assembles to `W CMD, <word>` (R61). -/
def asmCmd (c : Config) (i : Instr) : Event := asmW c .cmd (encode i)

/-- The bytes of a text from LINE[i] on. -/
def asmBytes (c : Config) : (i : Nat) → List Byte → List Event
  | _, [] => []
  | i, b :: bs => asmW c (.line i) (b.setWidth 32) :: asmBytes c (i + 1) bs

/-- `LDLINE "<text>"` (R62), none where the text is longer than LINE_CAP (the program is ill-formed). -/
def asmLdline (c : Config) (text : List Byte) : Option (List Event) :=
  if text.length ≤ c.lineCap then
    some (asmBytes c 0 text ++ [asmW c .lineLen (BitVec.ofNat 32 text.length)])
  else none

/-- `ARGS a` (R62). -/
def asmArgs1 (c : Config) (a : Word) : List Event := [asmW c .argA a]

/-- `ARGS a, b` (R62). -/
def asmArgs2 (c : Config) (a b : Word) : List Event := [asmW c .argA a, asmW c .argB b]

/-- `FEEDLINE "<text>"` (R62). -/
def asmFeedline (c : Config) (text : List Byte) : Option (List Event) :=
  (asmLdline c text).map (fun es => es ++ [asmCmd c .feed])

/-- `APPENDTEXT Cx, "<text>"` (R62). -/
def asmAppendtext (c : Config) (x : CursorSel) (text : List Byte) : Option (List Event) :=
  (asmLdline c text).map (fun es =>
    es ++ asmArgs2 c 0#32 (BitVec.ofNat 32 text.length) ++ [asmCmd c (.bcAppend x)])

/-- `RD64 Y0` (R62). -/
def asmRd64Y0 (c : Config) : List Event := [asmR c .y0Lo, asmR c .y0Hi]

/-- `RD64 Y1` (R62). -/
def asmRd64Y1 (c : Config) : List Event := [asmR c .y1Lo, asmR c .y1Hi]

end Sys2Proof.Machine
end

