-- ==== Sys2Proof/Machine/Rounding.lean ====
section
/-! DEFINITION. What it is to be the nearest binary64 value of a rational, ties to even (spec/00_scope.md R12), apart from
how `rne64` computes it. -/

namespace Sys2Proof.Machine

/-- The rational a binary64 value is. -/
def Bin64.toRat (x : Bin64) : ℚ := (if x.neg then -1 else 1) * (x.man : ℚ) * (2 : ℚ) ^ x.exp

/-- A canonical value in binary64's normal range, or +0. -/
def Bin64.IsNormal (x : Bin64) : Prop :=
  (x.man = 0 ∧ x.neg = false) ∨
    (2 ^ 52 ≤ x.man ∧ x.man < 2 ^ 53 ∧ -1022 ≤ x.exp + 52 ∧ x.exp + 52 ≤ 1023)

/-- `x` is the nearest binary64 value of `q`, and has an even significand where another is as near. -/
def IsNearest (q : ℚ) (x : Bin64) : Prop :=
  x.IsNormal ∧
    ∀ y : Bin64, y.man < 2 ^ 53 →
      |q - x.toRat| < |q - y.toRat| ∨ y.toRat = x.toRat ∨ (|q - x.toRat| = |q - y.toRat| ∧ x.man % 2 = 0)

/-- `y` is the binary64 bit pattern of `x`: the sign in bit 63, the exponent plus 1023 in bits 62:52, the fraction without
its leading 1 in bits 51:0; zero has both fields 0 (`bits64`, spec/00_scope.md R12, apart from how the model computes it). -/
structure Bin64.HasPattern (x : Bin64) (y : DWord) : Prop where
  sign     : y.toNat / 2 ^ 63 = x.neg.toNat
  zero     : x.man = 0 → y.toNat % 2 ^ 63 = 0
  exponent : x.man ≠ 0 → ((y.toNat / 2 ^ 52 % 2 ^ 11 : Nat) : Int) = x.exp + 52 + 1023
  fraction : x.man ≠ 0 → 2 ^ 52 + y.toNat % 2 ^ 52 = x.man

end Sys2Proof.Machine
end

