-- ==== Sys2Proof/Machine/Stream.lean ====
section
/-! DEFINITION. The bit stream a cursor serves (spec/10_state.md R22), against which the fetch rules are stated. -/

namespace Sys2Proof.Machine

/-- The bits of an n-bit value, most significant first (spec/00_scope.md R11). -/
def bitsMsb (n v : Nat) : List Bool := (List.range n).map (fun j => v.testBit (n - 1 - j))

/-- The six bits of a character's group, bit 5 first; an invalid character has no group (R22). -/
def groupBits (c : Byte) : Option (List Bool) := (armor6 c).map (fun g => bitsMsb 6 g.toNat)

/-- The six bits of each character in order, none where one is invalid. -/
def charsBits : List Byte → Option (List Bool)
  | [] => some []
  | c :: cs =>
    match groupBits c, charsBits cs with
    | some g, some gs => some (g ++ gs)
    | _, _ => none

/-- The finite part of the stream: the remainder's bits, then those of the characters from POS on (R22), none where one of
these is invalid. -/
def Cursor.bits (c : Cursor) : Option (List Bool) :=
  (charsBits (c.buf.drop c.pos)).map (fun bs => bitsMsb c.remBits.toNat c.rem.toNat ++ bs)

/-- The first n bits of the stream whose finite part is `bs`: an infinite run of zero bits follows it (R22). -/
def takeStream (bs : List Bool) (n : Nat) : List Bool := (List.range n).map (fun i => bs.getD i false)

/-- The fetches of widths `ws` in order: the bits they return, first fetched first, and what they leave
(spec/40_bitcursor.md R118). -/
def fetchMany : List Nat → FetchSt → List Bool × FetchSt
  | [], f => ([], f)
  | w :: ws, f =>
    let p := fetchBits w f
    let q := fetchMany ws p.2
    (bitsMsb w p.1 ++ q.1, q.2)

/-- Bits as a number, the first most significant (R107). -/
def numberOf (bs : List Bool) : Nat := bs.foldl (fun a b => 2 * a + b.toNat) 0

/-- Bits cut into 6-bit groups, each mapped by `unarmor6` (R118): the first k characters. -/
def unarmorBits : (k : Nat) → List Bool → List Byte
  | 0, _ => []
  | k + 1, bs => unarmor6 (BitVec.ofNat 6 (numberOf (bs.take 6))) :: unarmorBits k (bs.drop 6)

end Sys2Proof.Machine
end

