-- ==== Sys2Proof/Safety.lean ====
section
/-! DEFINITION. What a sound state of the machine is: the invariants the spec states between any two commands
(spec/10_state.md R20, R21, R25; spec/60_exceptions.md R205, R207, R208) and the form of the arrays. -/

namespace Sys2Proof.Machine

/-- R20 and R21: POS ≤ BUF_LEN ≤ CAP_CHARS, REM_BITS ≤ 5, REM < 2^REM_BITS. -/
structure Cursor.Sound (cap : Nat) (c : Cursor) : Prop where
  posLe  : c.pos ≤ c.bufLen
  lenLe  : c.bufLen ≤ cap
  bitsLe : c.remBits.toNat ≤ 5
  remLt  : c.rem.toNat < 2 ^ c.remBits.toNat

/-- R25: an idle RS is all zero; one in progress has 1 ≤ LAST_IDX < TOTAL. -/
structure Rs.Sound (r : Rs) : Prop where
  idle       : r.inProgress = false → r = Rs.idle
  inProgress : r.inProgress = true → 1 ≤ r.lastIdx.toNat ∧ r.lastIdx.toNat < r.total.toNat

/-- R205, R207, R208: LAST is 0 to 8 and the cause 0 in a block that is not faulted; in a faulted one LAST is 15 and the
cause 1 to 5. -/
structure Status.Sound (st : Status) : Prop where
  live    : st.fault = false → st.last.toNat ≤ 8 ∧ st.faultCause = 0#4
  faulted : st.fault = true → st.last = 15#4 ∧ 1 ≤ st.faultCause.toNat ∧ st.faultCause.toNat ≤ 5

/-- An array's form: indexes strictly rising, all inside the array. -/
structure MemorySound {w : Nat} (cap : Nat) (m : Memory w) : Prop where
  rising : m.wf = true
  inside : m.below cap = true

/-- The machine's invariant. -/
structure State.Inv (s : State) : Prop where
  c0     : s.c0.Sound s.cfg.capChars
  c1     : s.c1.Sound s.cfg.capChars
  rs     : s.rs.Sound
  status : s.status.Sound
  line   : MemorySound s.cfg.lineCap s.lineMem
  recs   : MemorySound s.cfg.recWords s.recMem

end Sys2Proof.Machine
end

