-- ==== Sys2Proof/Certificates/Slice0/Obligations.lean ====
section
/-! DEFINITION. The statements about the machine, from the numbered rules of spec/. -/

open Sys2Proof Sys2Proof.Machine

/-! ### Command words (spec/30_encoding.md) -/

/-- R55, R58: no bit of a command's encoding is dropped. -/
def Obligations.DecodeEncodeRoundTrip : Prop :=
  ∀ i : Instr, i.wf = true → decode (encode i) = .ok i

/-- R55, R57: each word has one meaning, and every command a word decodes to is well formed. -/
def Obligations.EncodeDecodeRoundTrip : Prop :=
  ∀ (w : Word) (i : Instr), decode w = .ok i → encode i = w ∧ i.wf = true

/-- R57, R59: an unassigned OPC, a reserved bit and an illegal width are told apart, in that order. -/
def Obligations.IllegalWordsAreToldApart : Prop :=
  ∀ w : Word,
    let opc := w.toNat / 2 ^ 24
    let unassigned := (0x03 ≤ opc ∧ opc ≤ 0x0F) ∨ (0x17 ≤ opc ∧ opc ≤ 0x1F) ∨ (0x22 ≤ opc ∧ opc ≤ 0x2F) ∨
      (0x33 ≤ opc ∧ opc ≤ 0x3F) ∨ 0x47 ≤ opc
    let reserved :=
      if opc ∈ [0x10, 0x11, 0x12, 0x15] then w &&& 0x00FEFFFF#32 ≠ 0#32
      else if opc ∈ [0x13, 0x14] then w &&& 0x00FEFFC0#32 ≠ 0#32
      else w &&& 0x00FFFFFF#32 ≠ 0#32
    let width := w.toNat % 64
    (decode w = .error .badOpcode ↔ unassigned) ∧
    (decode w = .error .reservedBits ↔ ¬ unassigned ∧ reserved) ∧
    (decode w = .error .badWidth ↔ opc ∈ [0x13, 0x14] ∧ ¬ reserved ∧ (width = 0 ∨ 32 < width))

/-- R55, R61: some words written out bit by bit. -/
def Obligations.WrittenOutWordsDecode : Prop :=
  decode 0b00000000000000000000000000000000#32 = .ok .nop ∧
  decode 0b00010011000000000000000000000110#32 = .ok (.bcFetch .c0 6#6) ∧
  decode 0b00010011000000010000000000100000#32 = .ok (.bcFetch .c1 32#6) ∧
  decode 0b00010101000000010000000000000000#32 = .ok (.bcLength .c1) ∧
  decode 0b00100000000000000000000000000000#32 = .ok .feed ∧
  decode 0b00110001000000000000000000000000#32 = .ok .decode ∧
  decode 0b01000110000000000000000000000000#32 = .ok .armor6

/-! ### Steps (spec/30_encoding.md R57, spec/20_memory.md, spec/60_exceptions.md) -/

/-- R39, R57: the next access being a write to CMD of a word that decodes to `i`, the step is `exec i` with the access
taken and the host's position advanced; and the same of a word placed with `withFetchWord` (log entry 7). -/
def Obligations.StepExecutesTheWrittenCommand : Prop :=
  (∀ (s : State) (v : Word) (rest : List Event) (i : Instr),
    s.cfg.wf = true → s.host.pending = .write s.cfg.base 4 v :: rest → decode v = .ok i →
    step s = exec i { s with host := { s.host with pending := rest, position := s.host.position + 1 } }) ∧
  (∀ (s : State) (i : Instr), s.cfg.wf = true → i.wf = true →
    step (s.withFetchWord 32 (encode i).toNat) =
      exec i { s with host := { s.host with position := s.host.position + 1 } })

/-- R57, R207, R208: a word that is no command raises its fault in a block that is not faulted, and writes nothing but
the fault fields. -/
def Obligations.IllegalWordWritesTheFaultFieldsOnly : Prop :=
  ∀ (s : State) (v : Word) (rest : List Event) (e : DecodeError),
    s.cfg.wf = true → s.host.pending = .write s.cfg.base 4 v :: rest → decode v = .error e →
    s.status.fault = false →
    step s = .next { s with
      host := { s.host with pending := rest, position := s.host.position + 1 }
      status := { s.status with
        last := 15#4
        fault := true
        faultCause := match e with
          | .badOpcode => 1#4
          | .reservedBits => 2#4
          | .badWidth => 3#4 } }

/-- R209: a faulted block ignores every word but 0x01000000, which resets it. -/
def Obligations.FaultedBlockIgnoresEveryWordButReset : Prop :=
  ∀ (s : State) (v : Word) (rest : List Event),
    s.cfg.wf = true → s.host.pending = .write s.cfg.base 4 v :: rest → s.status.fault = true →
    (v ≠ 0x01000000#32 →
      step s = .next { s with host := { s.host with pending := rest, position := s.host.position + 1 } }) ∧
    (v = 0x01000000#32 → ∃ t, step s = .next t ∧ t.status = Status.clear)

/-- R209, R213: a step out of a faulted state leaves STATUS as it is, or is one of the two resets. -/
def Obligations.OnlyResetEndsAFault : Prop :=
  ∀ s t : State, step s = .next t → s.status.fault = true →
    t.status = s.status ∨
    (t.status = Status.clear ∧
      (s.host.pending.head? = some .hwReset ∨
        s.host.pending.head? = some (.write s.cfg.base 4 0x01000000#32)))

/-- R33, R30, R39, R42: a read of each register returns its word and changes no state of the block. -/
def Obligations.HostReadsEveryRegister : Prop :=
  ∀ (s : State) (rest : List Event) (off : Nat) (w : Word),
    s.cfg.wf = true → s.host.pending = .read (s.cfg.base + off) 4 :: rest →
    (off, w) ∈
      [ (0x0000, 0#32), (0x0004, s.argA), (0x0008, s.argB), (0x000C, s.lineLen),
        (0x0010, BitVec.ofNat 32 (s.y0.toNat % 2 ^ 32)), (0x0014, BitVec.ofNat 32 (s.y0.toNat / 2 ^ 32)),
        (0x0018, BitVec.ofNat 32 (s.y1.toNat % 2 ^ 32)), (0x001C, BitVec.ofNat 32 (s.y1.toNat / 2 ^ 32)),
        (0x0020, BitVec.ofNat 32 (s.status.last.toNat + 2 ^ 8 * s.status.badchar.toNat +
          2 ^ 9 * s.status.overflow.toNat + 2 ^ 12 * s.rs.inProgress.toNat + 2 ^ 16 * s.status.fault.toNat +
          2 ^ 20 * s.status.faultCause.toNat)),
        (0x0024, BitVec.ofNat 32 s.tag.toNat), (0x0028, s.rs.total), (0x002C, s.rs.lastIdx), (0x0030, s.rs.seq),
        (0x0034, BitVec.ofNat 32 s.rs.chan.toNat),
        (0x0040, BitVec.ofNat 32 s.c0.pos), (0x0044, BitVec.ofNat 32 s.c0.buf.length),
        (0x0048, BitVec.ofNat 32 (s.c0.rem.toNat + 2 ^ 8 * s.c0.remBits.toNat)),
        (0x0050, BitVec.ofNat 32 s.c1.pos), (0x0054, BitVec.ofNat 32 s.c1.buf.length),
        (0x0058, BitVec.ofNat 32 (s.c1.rem.toNat + 2 ^ 8 * s.c1.remBits.toNat)) ] →
    step s = .next { s with
      host := { pending := rest, position := s.host.position + 1, reads := w :: s.host.reads } }

/-- R33, R23, R42: a read of an array element returns it; one of a cursor character at or beyond BUF_LEN returns a draw,
bits [31:8] zero, and takes a fresh draw number (log entry 3); no state of the block changes. -/
def Obligations.HostReadsEveryArrayElement : Prop :=
  ∀ (s : State) (rest : List Event) (off i : Nat) (c : CursorSel),
    s.cfg.wf = true → s.host.pending = .read (s.cfg.base + off) 4 :: rest →
    let after (w : Word) (draws : Nat) : State := { s with
      host := { pending := rest, position := s.host.position + 1, reads := w :: s.host.reads }, draws := draws }
    let window := match c with
      | .c0 => 0x2000
      | .c1 => 0x3000
    (off = 0x1000 + 4 * i → i < s.cfg.lineCap →
      step s = .next (after (BitVec.ofNat 32 (s.lineByte i).toNat) s.draws)) ∧
    (off = 0x4000 + 4 * i → i < s.cfg.recWords → step s = .next (after (s.recWord i) s.draws)) ∧
    (∀ h : i < (s.cursor c).buf.length, off = window + 4 * i → i < s.cfg.capChars →
      step s = .next (after (BitVec.ofNat 32 ((s.cursor c).buf[i]).toNat) s.draws)) ∧
    ((s.cursor c).buf.length ≤ i → off = window + 4 * i → i < s.cfg.capChars →
      ∃ b : Byte, step s = .next (after (BitVec.ofNat 32 b.toNat) (s.draws + 1)))

/-- R34, R39: what a write to each word but CMD stores, and that it changes nothing else; every element of LINE and REC
but the one written keeps its value. -/
def Obligations.HostWritesEveryWord : Prop :=
  ∀ (s : State) (rest : List Event) (off i : Nat) (v : Word),
    s.cfg.wf = true → s.host.pending = .write (s.cfg.base + off) 4 v :: rest →
    let u : State := { s with host := { s.host with pending := rest, position := s.host.position + 1 } }
    (off = 0x0004 → step s = .next { u with argA := v }) ∧
    (off = 0x0008 → step s = .next { u with argB := v }) ∧
    (off = 0x000C → step s = .next { u with lineLen := v }) ∧
    (off = 0x1000 + 4 * i → i < s.cfg.lineCap → ∃ t, step s = .next t ∧ t = { u with lineMem := t.lineMem } ∧
      ∀ j, t.lineByte j = if j = i then BitVec.ofNat 8 (v.toNat % 256) else s.lineByte j) ∧
    (off = 0x4000 + 4 * i → i < s.cfg.recWords → ∃ t, step s = .next t ∧ t = { u with recMem := t.recMem } ∧
      ∀ j, t.recWord j = if j = i then v else s.recWord j) ∧
    ((off ∈ [0x0010, 0x0014, 0x0018, 0x001C, 0x0020, 0x0024, 0x0028, 0x002C, 0x0030, 0x0034, 0x0040, 0x0044, 0x0048,
        0x0050, 0x0054, 0x0058] ∨
      ((off = 0x2000 + 4 * i ∨ off = 0x3000 + 4 * i) ∧ i < s.cfg.capChars)) → step s = .next u)

/-- R40, R41: an access of another width, at an offset that is no multiple of 4, or outside the mapped words has no
step. It ends in a fault of the model, whose names and order are the model's choice (log entry 5), as is that an address
below BASE names no word (log entry 9). -/
def Obligations.OtherAccessesHaveNoStep : Prop :=
  ∀ (s : State) (rest : List Event) (addr width : Nat) (v : Word),
    s.cfg.wf = true →
    (s.host.pending = .read addr width :: rest ∨ s.host.pending = .write addr width v :: rest) →
    let off := addr - s.cfg.base
    (width ≠ 4 → step s = .fault .accessWidth) ∧
    (width = 4 → addr < s.cfg.base → step s = .fault .accessUnmapped) ∧
    (width = 4 → s.cfg.base ≤ addr → off % 4 ≠ 0 → step s = .fault .accessMisaligned) ∧
    (width = 4 → s.cfg.base ≤ addr → off % 4 = 0 →
      off ∉ [0x0000, 0x0004, 0x0008, 0x000C, 0x0010, 0x0014, 0x0018, 0x001C, 0x0020, 0x0024, 0x0028, 0x002C, 0x0030,
        0x0034, 0x0040, 0x0044, 0x0048, 0x0050, 0x0054, 0x0058] →
      ¬ (0x1000 ≤ off ∧ off < 0x1000 + 4 * s.cfg.lineCap) →
      ¬ (0x2000 ≤ off ∧ off < 0x2000 + 4 * s.cfg.capChars) →
      ¬ (0x3000 ≤ off ∧ off < 0x3000 + 4 * s.cfg.capChars) →
      ¬ (0x4000 ≤ off ∧ off < 0x4000 + 4 * s.cfg.recWords) → step s = .fault .accessUnmapped)

/-- R8, R37: an ill-formed configuration is refused, and no step changes the configuration. R15 and, for what a step does
with no event to come, the model's choice (log entry 6): nothing changes. -/
def Obligations.ConfigurationIsCheckedAndFixed : Prop :=
  ∀ s : State, (s.cfg.wf = false → step s = .refused .illFormedConfig) ∧
    (s.cfg.wf = true → s.host.pending = [] → step s = .next s) ∧
    (∀ t, step s = .next t → t.cfg = s.cfg)

/-- R20, R21, R25, R205, R207, R208: the invariants the spec states between commands, kept by every step from every state
that meets them; and the form of the arrays, which is the model's (log entry 4). -/
def Obligations.EveryStepKeepsTheInvariant : Prop :=
  ∀ s t : State, s.Inv → step s = .next t → t.Inv

/-- R225: reset meets the invariants, the form of the arrays among them (log entry 4). -/
def Obligations.ResetMeetsTheInvariant : Prop := State.reset.Inv

/-- R221, R224, R226: the hardware reset and the RESET command leave every register at its reset value, and the
configuration as it was; that the host's part stays is the model's reading (log entry 8). -/
def Obligations.BothResetsLeaveTheResetValues : Prop :=
  ∀ (s : State) (rest : List Event),
    s.cfg.wf = true →
    (s.host.pending = .hwReset :: rest ∨ s.host.pending = .write s.cfg.base 4 0x01000000#32 :: rest) →
    ∃ t, step s = .next t ∧
      t.c0.pos = 0 ∧ t.c0.bufLen = 0 ∧ t.c0.rem = 0#6 ∧ t.c0.remBits = 0#3 ∧
      t.c1.pos = 0 ∧ t.c1.bufLen = 0 ∧ t.c1.rem = 0#6 ∧ t.c1.remBits = 0#3 ∧
      t.rs = { inProgress := false, total := 0#32, lastIdx := 0#32, seq := 0#32, chan := 0x00#8 } ∧
      t.tag = 0#6 ∧ t.argA = 0#32 ∧ t.argB = 0#32 ∧ t.lineLen = 0#32 ∧ t.y0 = 0#64 ∧ t.y1 = 0#64 ∧
      t.status = { last := 0#4, badchar := false, overflow := false, fault := false, faultCause := 0#4 } ∧
      t.cfg = s.cfg ∧ t.host.pending = rest ∧ t.host.reads = s.host.reads

/-! ### System commands (spec/45_system.md) -/

/-- R201, R203: NOP writes STATUS.LAST only, CLRFLAGS the two sticky flags too, and a faulted block ignores both. R202:
RESET runs in any state, clears STATUS and keeps the configuration; that it keeps the host's part is the model's reading
(log entry 8). -/
def Obligations.SystemCommandsDoNothingElse : Prop :=
  decode 0x00000000#32 = .ok .nop ∧ decode 0x01000000#32 = .ok .reset ∧ decode 0x02000000#32 = .ok .clrflags ∧
  ∀ s : State,
    (s.status.fault = false →
      exec .nop s = .next { s with status := { s.status with last := 0#4 } } ∧
      exec .clrflags s = .next { s with status := { s.status with last := 0#4, badchar := false, overflow := false } }) ∧
    (s.status.fault = true → exec .nop s = .next s ∧ exec .clrflags s = .next s) ∧
    (∃ t, exec .reset s = .next t ∧ t.status = Status.clear ∧ t.cfg = s.cfg ∧ t.host = s.host)

/-! ### Bit cursor (spec/40_bitcursor.md) -/

/-- R103, R104, R119: BC_INIT rewinds and keeps the buffer, and a second one leaves what one leaves; BC_CLEAR leaves every
field of the cursor as after reset. Nothing else but LAST changes. -/
def Obligations.BcInitRewindsAndBcClearEmpties : Prop :=
  ∀ (s : State) (c : CursorSel), s.status.fault = false →
    decode (match c with | .c0 => 0x10000000#32 | .c1 => 0x10010000#32) = .ok (.bcInit c) ∧
    decode (match c with | .c0 => 0x11000000#32 | .c1 => 0x11010000#32) = .ok (.bcClear c) ∧
    exec (.bcInit c) s = .next
      ({ s with status := { s.status with last := 0#4 } }.setCursor c
        { buf := (s.cursor c).buf, pos := 0, rem := 0#6, remBits := 0#3 }) ∧
    (∀ t, exec (.bcInit c) s = .next t → exec (.bcInit c) t = .next t) ∧
    exec (.bcClear c) s = .next
      ({ s with status := { s.status with last := 0#4 } }.setCursor c
        { buf := [], pos := 0, rem := 0#6, remBits := 0#3 })

/-- R105, R106: BC_APPEND appends LINE[ARG_A .. ARG_A + ARG_B - 1], keeps what fits CAP_CHARS and raises OVERFLOW where a
character is dropped; a range outside LINE raises BAD_OPERAND and nothing else. -/
def Obligations.BcAppendStoresWhatFits : Prop :=
  ∀ (s : State) (c : CursorSel), s.status.fault = false → (s.cursor c).buf.length ≤ s.cfg.capChars →
    let count := s.argB.toNat
    let bytes := (List.range count).map (fun i => s.lineByte (s.argA.toNat + i))
    decode (match c with | .c0 => 0x12000000#32 | .c1 => 0x12010000#32) = .ok (.bcAppend c) ∧
    (s.argA.toNat + count ≤ s.cfg.lineCap →
      exec (.bcAppend c) s = .next
        ({ s with status := { s.status with
            last := 0#4
            overflow := s.status.overflow || decide (s.cfg.capChars < (s.cursor c).buf.length + count) } }.setCursor c
          { s.cursor c with buf := ((s.cursor c).buf ++ bytes).take s.cfg.capChars })) ∧
    (s.cfg.lineCap < s.argA.toNat + count →
      exec (.bcAppend c) s = .next { s with
        status := { s.status with last := 15#4, fault := true, faultCause := 4#4 } })

/-- R107, R22: BC_FETCH returns the first n bits of the cursor's stream, the first most significant, removes them from
the stream, and changes nothing else. -/
def Obligations.BcFetchReturnsTheNextStreamBits : Prop :=
  ∀ (s : State) (c : CursorSel) (n : Sextet) (bs : List Bool),
    s.status.fault = false → 1 ≤ n.toNat → n.toNat ≤ 32 →
    (s.cursor c).Sound s.cfg.capChars → (s.cursor c).bits = some bs →
    ∃ t, exec (.bcFetch c n) s = .next t ∧
      t.y0 = BitVec.ofNat 64 (numberOf (takeStream bs n.toNat)) ∧
      (t.cursor c).bits = some (bs.drop n.toNat) ∧ (t.cursor c).buf = (s.cursor c).buf ∧
      t = { s with y0 := t.y0, status := { s.status with last := 0#4 } }.setCursor c (t.cursor c)

/-- R107, R110, R112, R116, R101: BC_FETCH completes whatever the characters. The result is below 2^n. BADCHAR is raised
exactly where a character it pulled is invalid. A cursor of length L is left with length L - n; where n exceeds L, POS is
at BUF_LEN, no remainder is held and the missing low bits are zero. Nothing but the cursor, Y0, LAST, BADCHAR
and the model's draw counter (log entry 2) changes. -/
def Obligations.BcFetchCompletesOnEveryCursor : Prop :=
  ∀ (s : State) (c : CursorSel) (n : Sextet),
    s.status.fault = false → 1 ≤ n.toNat → n.toNat ≤ 32 → (s.cursor c).Sound s.cfg.capChars →
    let len := (s.cursor c).remBits.toNat + 6 * ((s.cursor c).buf.length - (s.cursor c).pos)
    ∃ t, exec (.bcFetch c n) s = .next t ∧ t.y0.toNat < 2 ^ n.toNat ∧
      t.status.badchar = (s.status.badchar ||
        (((s.cursor c).buf.drop (s.cursor c).pos).take ((t.cursor c).pos - (s.cursor c).pos)).any
          (fun ch => (armor6 ch).isNone)) ∧
      (t.cursor c).remBits.toNat + 6 * ((t.cursor c).buf.length - (t.cursor c).pos) = len - n.toNat ∧
      (len < n.toNat →
        (t.cursor c).pos = (s.cursor c).buf.length ∧ (t.cursor c).remBits = 0#3 ∧
        t.y0.toNat % 2 ^ (n.toNat - len) = 0) ∧
      (t.cursor c).buf = (s.cursor c).buf ∧
      t = { s with
        y0 := t.y0, draws := t.draws
        status := { s.status with last := 0#4, badchar := t.status.badchar } }.setCursor c (t.cursor c)

/-- R113, R114: BC_FETCHS leaves what BC_FETCH leaves, but Y0 holds the n bits read as two's complement. This compares two
runs from one state: where a character is invalid, that both draw the same group is the model's choice (log entry 2, R110
calls each draw fresh). -/
def Obligations.BcFetchsIsBcFetchSigned : Prop :=
  ∀ (s : State) (c : CursorSel) (n : Sextet),
    s.status.fault = false → 1 ≤ n.toNat → n.toNat ≤ 32 → (s.cursor c).Sound s.cfg.capChars →
    ∃ t, exec (.bcFetch c n) s = .next t ∧
      exec (.bcFetchs c n) s = .next { t with
        y0 := BitVec.ofInt 64
          (if 2 ^ (n.toNat - 1) ≤ t.y0.toNat then (t.y0.toNat : Int) - 2 ^ n.toNat else (t.y0.toNat : Int)) }

/-- R108: a fetch width of 0 or above 32 raises BAD_WIDTH and changes nothing else, as the word and as the command. -/
def Obligations.IllegalFetchWidthFaults : Prop :=
  ∀ (s : State) (c : CursorSel) (n : Sextet), s.status.fault = false → (n.toNat = 0 ∨ 32 < n.toNat) →
    let bad (u : State) : State := { u with status := { u.status with last := 15#4, fault := true, faultCause := 3#4 } }
    exec (.bcFetch c n) s = .next (bad s) ∧ exec (.bcFetchs c n) s = .next (bad s) ∧
    ∀ (w : Word) (rest : List Event),
      w ∈ [0x13000000#32 ||| n.setWidth 32, 0x13010000#32 ||| n.setWidth 32, 0x14000000#32 ||| n.setWidth 32,
        0x14010000#32 ||| n.setWidth 32] →
      s.cfg.wf = true → s.host.pending = .write s.cfg.base 4 w :: rest →
      step s = .next (bad { s with host := { s.host with pending := rest, position := s.host.position + 1 } })

/-- R115: BC_LENGTH writes remainder bits + 6 × unconsumed characters, and nothing else but LAST. -/
def Obligations.BcLengthCountsTheBitsLeft : Prop :=
  ∀ (s : State) (c : CursorSel), s.status.fault = false →
    decode (match c with | .c0 => 0x15000000#32 | .c1 => 0x15010000#32) = .ok (.bcLength c) ∧
    exec (.bcLength c) s = .next { s with
      y0 := BitVec.ofNat 64 ((s.cursor c).remBits.toNat + 6 * ((s.cursor c).buf.length - (s.cursor c).pos))
      status := { s.status with last := 0#4 } }

/-- R117: BC_SNAPSHOT copies C0 to C1, and later changes of C0 do not change C1. -/
def Obligations.BcSnapshotCopiesTheMainCursor : Prop :=
  decode 0x16000000#32 = .ok .bcSnapshot ∧
  ∀ s : State, s.status.fault = false →
    exec .bcSnapshot s = .next { s with c1 := s.c0, status := { s.status with last := 0#4 } } ∧
    ∀ (i : Instr) (t u : State), i ∈ [.bcInit .c0, .bcClear .c0, .bcAppend .c0, .feed, .rsReset, .dispatch] →
      exec .bcSnapshot s = .next t → exec i t = .next u → u.c1 = s.c0

/-- R102: the armor table is a bijection from the valid characters onto 0..63, with `unarmor6` its inverse, and has
the two bands' values. -/
def Obligations.ArmorTableIsABijection : Prop :=
  (∀ (c : Byte) (v : Sextet), armor6 c = some v ↔ c = unarmor6 v) ∧
  (∀ c : Byte, armor6 c =
    if 0x30 ≤ c.toNat ∧ c.toNat ≤ 0x57 then some (BitVec.ofNat 6 (c.toNat - 0x30))
    else if 0x60 ≤ c.toNat ∧ c.toNat ≤ 0x77 then some (BitVec.ofNat 6 (c.toNat - 0x38))
    else none) ∧
  (∀ v : Sextet, (unarmor6 v).toNat = if v.toNat < 40 then v.toNat + 0x30 else v.toNat + 0x38)

/-- R118: the bits fetched in any widths from a rewound cursor of valid characters, cut into 6-bit groups and mapped by
`unarmor6`, give the characters back. -/
def Obligations.FetchedBitsGiveTheCharactersBack : Prop :=
  ∀ (f : FetchSt) (ws : List Nat) (k : Nat),
    f.cur.pos = 0 → f.cur.rem = 0#6 → f.cur.remBits = 0#3 → (∀ ch ∈ f.cur.buf, (armor6 ch).isSome = true) →
    (∀ w ∈ ws, 1 ≤ w ∧ w ≤ 32) → ws.sum = 6 * k → k ≤ f.cur.buf.length →
    unarmorBits k (fetchMany ws f).1 = f.cur.buf.take k

/-- R101: a cursor command touches only the cursor it names (BC_SNAPSHOT: C1), Y0, LAST and the sticky flags; the draw counter
is the model's (log entry 2). -/
def Obligations.CursorCommandsTouchOnlyTheirCursor : Prop :=
  ∀ (s t : State) (i : Instr) (c : CursorSel),
    (i ∈ [.bcInit c, .bcClear c, .bcAppend c, .bcLength c] ∨ (∃ n, i = .bcFetch c n ∨ i = .bcFetchs c n) ∨
      (i = .bcSnapshot ∧ c = .c1)) →
    exec i s = .next t →
    t = { s with y0 := t.y0, status := t.status, draws := t.draws }.setCursor c (t.cursor c)

/-! ### Framer and reassembler (spec/41_reassembler.md) -/

/-- R121, R125, R126, R128 to R132: a line of the wire format is accepted, with leading garbage before the marker and any
bytes after the digits, and gives its fields. -/
def Obligations.FramerAcceptsTheWireFormat : Prop :=
  ∀ (junk address f1 f2 f3 f4 f5 fill rest : List Byte) (marker t1 t2 x hi lo : Byte) (total idx seq : Word)
    (vhi vlo : Nat),
    (∀ b ∈ junk, b ≠ 0x21#8 ∧ b ≠ 0x24#8) → (marker = 0x21#8 ∨ marker = 0x24#8) → (x = 0x4D#8 ∨ x = 0x4F#8) →
    let f0 := [t1, t2, 0x56#8, 0x44#8, x] ++ address
    let comma := 0x2C#8
    let body := f0 ++ [comma] ++ f1 ++ [comma] ++ f2 ++ [comma] ++ f3 ++ [comma] ++ f4 ++ [comma] ++ f5 ++ fill
    (∀ b ∈ f0 ++ f1 ++ f2 ++ f3 ++ f4 ++ f5, b ≠ comma ∧ b ≠ 0x2A#8) →
    (fill = [] ∨ ∃ more, fill = comma :: more) → (∀ b ∈ fill, b ≠ 0x2A#8) →
    uint f1 = some total → uint f2 = some idx → uint f3 = some seq →
    hexVal hi = some vhi → hexVal lo = some vlo → (xorBytes body).toNat = 16 * vhi + vlo →
    frame (junk ++ [marker] ++ body ++ [0x2A#8, hi, lo] ++ rest) =
      .ok { total := total, idx := idx, seq := seq, chan := f4.headD 0x00#8, payload := f5 }

/-- R125, R126, R128 to R130, R215: no marker gives NOT_AIS, and so does another sentence type after the first marker; with
a type that passes, a missing, malformed or wrong checksum gives CHECKSUM_FAIL whatever the fields hold; with a checksum
that matches, fewer than six fields give FIELD_ERR, and so does a total, idx or seq field that is no unsigned number
(R130). -/
def Obligations.FramerRejectsInOrder : Prop :=
  (∀ l : List Byte, (∀ b ∈ l, b ≠ 0x21#8 ∧ b ≠ 0x24#8) → frame l = .error .notAis) ∧
  (∀ (junk l : List Byte) (marker : Byte), (∀ b ∈ junk, b ≠ 0x21#8 ∧ b ≠ 0x24#8) →
    (marker = 0x21#8 ∨ marker = 0x24#8) →
    ((∀ t1 t2 rest, l ≠ t1 :: t2 :: 0x56#8 :: 0x44#8 :: 0x4D#8 :: rest ∧
        l ≠ t1 :: t2 :: 0x56#8 :: 0x44#8 :: 0x4F#8 :: rest) →
      frame (junk ++ [marker] ++ l) = .error .notAis) ∧
    (∀ t1 t2 x rest, l = t1 :: t2 :: 0x56#8 :: 0x44#8 :: x :: rest → (x = 0x4D#8 ∨ x = 0x4F#8) →
      ((∀ b ∈ l, b ≠ 0x2A#8) → frame (junk ++ [marker] ++ l) = .error .checksumFail) ∧
      (∀ body tail, (∀ b ∈ body, b ≠ 0x2A#8) → l = body ++ [0x2A#8] ++ tail →
        let hi := tail[0]?.bind hexVal
        let lo := tail[1]?.bind hexVal
        ((∀ vhi vlo, hi = some vhi → lo = some vlo → (xorBytes body).toNat ≠ 16 * vhi + vlo) →
          frame (junk ++ [marker] ++ l) = .error .checksumFail) ∧
        (∀ vhi vlo, hi = some vhi → lo = some vlo → (xorBytes body).toNat = 16 * vhi + vlo →
          (body.count 0x2C#8 < 5 → frame (junk ++ [marker] ++ l) = .error .fieldErr) ∧
          (∀ f0 f1 f2 f3 more : List Byte, (∀ b ∈ f0 ++ f1 ++ f2 ++ f3, b ≠ 0x2C#8) →
            body = f0 ++ [0x2C#8] ++ f1 ++ [0x2C#8] ++ f2 ++ [0x2C#8] ++ f3 ++ [0x2C#8] ++ more →
            (uint f1 = none ∨ uint f2 = none ∨ uint f3 = none) →
            frame (junk ++ [marker] ++ l) = .error .fieldErr)))))

/-- R130: an empty field is 0; a field with a byte outside '0'..'9' fails; otherwise it is read as a decimal number,
leading zeros allowed, and a value above 2^32 - 1 fails. -/
def Obligations.UnsignedFieldsAreDecimal : Prop :=
  ∀ f : List Byte,
    let value := f.foldl (fun a b => 10 * a + (b.toNat - 0x30)) 0
    (f = [] → uint f = some 0#32) ∧
    ((∃ b ∈ f, b.toNat < 0x30 ∨ 0x39 < b.toNat) → uint f = none) ∧
    ((∀ b ∈ f, 0x30 ≤ b.toNat ∧ b.toNat ≤ 0x39) →
      uint f = if value < 2 ^ 32 then some (BitVec.ofNat 32 value) else none)

/-- R122, R124, R127: FEED of a line that fits LINE completes with exactly one of its six codes, and writes no Y register
and not TAG, REC, C1, LINE or an operand; a longer one raises BAD_LINE_LEN and changes nothing else. -/
def Obligations.FeedWritesOneOfItsCodes : Prop :=
  ∀ s : State, s.status.fault = false →
    (s.lineLen.toNat ≤ s.cfg.lineCap → ∃ t, exec .feed s = .next t ∧
      (t.status.last = 1#4 ∨ t.status.last = 2#4 ∨ t.status.last = 3#4 ∨ t.status.last = 4#4 ∨ t.status.last = 5#4 ∨
        t.status.last = 6#4) ∧
      t = { s with
        c0 := t.c0, rs := t.rs
        status := { s.status with last := t.status.last, overflow := t.status.overflow } }) ∧
    (s.cfg.lineCap < s.lineLen.toNat → exec .feed s = .next { s with
      status := { s.status with last := 15#4, fault := true, faultCause := 5#4 } })

/-- R123: a framing result changes nothing but STATUS.LAST, which holds 3, 4 or 5. -/
def Obligations.FramingResultsChangeOnlyLast : Prop :=
  ∀ (s : State) (r : ResultCode),
    s.status.fault = false → s.lineLen.toNat ≤ s.cfg.lineCap →
    frame ((List.range s.lineLen.toNat).map s.lineByte) = .error r →
    exec .feed s = .next { s with status := { s.status with
      last := match r with
        | .checksumFail => 3#4
        | .notAis => 4#4
        | _ => 5#4 } }

/-- R133 to R135, R138 to R141: a first fragment while idle empties C0, appends its payload, and completes or asks for
more. -/
def Obligations.FirstFragmentStartsAReassembly : Prop :=
  ∀ (s : State) (f : Fragment),
    s.status.fault = false → s.lineLen.toNat ≤ s.cfg.lineCap →
    frame ((List.range s.lineLen.toNat).map s.lineByte) = .ok f → s.rs.inProgress = false → f.idx = 1#32 →
    let done := f.total = 0#32 ∨ f.total = 1#32
    let u : State := { s with
      c0 := { buf := f.payload.take s.cfg.capChars, pos := 0, rem := 0#6, remBits := 0#3 }
      status := { s.status with
        overflow := s.status.overflow || decide (s.cfg.capChars < f.payload.length) } }
    (done → exec .feed s = .next { u with
      rs := { inProgress := false, total := 0#32, lastIdx := 0#32, seq := 0#32, chan := 0x00#8 }
      status := { u.status with last := 1#4 } }) ∧
    (¬ done → exec .feed s = .next { u with
      rs := { inProgress := true, total := f.total, lastIdx := 1#32, seq := f.seq, chan := f.chan }
      status := { u.status with last := 2#4 } })

/-- R134, R136, R137, R142: while idle, a fragment whose index is not 1 changes nothing but STATUS.LAST; in progress, one
that differs from RS in its total, sequence id or channel, or whose index is not the next, empties C0, zeroes RS and is
dropped. -/
def Obligations.FragmentsOutOfSequenceAreDropped : Prop :=
  ∀ (s : State) (f : Fragment),
    s.status.fault = false → s.lineLen.toNat ≤ s.cfg.lineCap →
    frame ((List.range s.lineLen.toNat).map s.lineByte) = .ok f →
    (s.rs.inProgress = false → f.idx ≠ 1#32 →
      exec .feed s = .next { s with status := { s.status with last := 6#4 } }) ∧
    (s.rs.inProgress = true →
      ¬ (f.total = s.rs.total ∧ f.seq = s.rs.seq ∧ f.chan = s.rs.chan ∧ f.idx.toNat = s.rs.lastIdx.toNat + 1) →
      exec .feed s = .next { s with
        c0 := { buf := [], pos := 0, rem := 0#6, remBits := 0#3 }
        rs := { inProgress := false, total := 0#32, lastIdx := 0#32, seq := 0#32, chan := 0x00#8 }
        status := { s.status with last := 6#4 } })

/-- R136, R138 to R141: a fragment that continues the reassembly is appended; the last one completes it. -/
def Obligations.MatchingFragmentContinuesTheReassembly : Prop :=
  ∀ (s : State) (f : Fragment),
    s.status.fault = false → s.lineLen.toNat ≤ s.cfg.lineCap → s.c0.buf.length ≤ s.cfg.capChars →
    frame ((List.range s.lineLen.toNat).map s.lineByte) = .ok f → s.rs.inProgress = true →
    f.total = s.rs.total → f.seq = s.rs.seq → f.chan = s.rs.chan → f.idx.toNat = s.rs.lastIdx.toNat + 1 →
    let done := f.total = 0#32 ∨ f.idx = s.rs.total
    let u : State := { s with
      c0 := { s.c0 with buf := (s.c0.buf ++ f.payload).take s.cfg.capChars }
      status := { s.status with
        overflow := s.status.overflow || decide (s.cfg.capChars < s.c0.buf.length + f.payload.length) } }
    (done → exec .feed s = .next { u with
      rs := { inProgress := false, total := 0#32, lastIdx := 0#32, seq := 0#32, chan := 0x00#8 }
      status := { u.status with last := 1#4 } }) ∧
    (¬ done → exec .feed s = .next { u with
      rs := { s.rs with lastIdx := f.idx }
      status := { u.status with last := 2#4 } })

/-- R144: the fragments 1, 2, ..., n of a correctly chained sequence give NEED_MORE each but the last, which gives
COMPLETE with the payloads concatenated. Between two FEEDs the host writes the next line. -/
def Obligations.ChainedFragmentsCompleteOnce : Prop :=
  ∀ (fs : List Fragment) (before after : Nat → State) (seq : Word) (chan : Byte),
    1 ≤ fs.length → fs.length < 2 ^ 32 →
    (∀ k (h : k < fs.length), fs[k].idx.toNat = k + 1 ∧ fs[k].total.toNat = fs.length ∧ fs[k].seq = seq ∧
      fs[k].chan = chan) →
    (before 0).rs.inProgress = false → (before 0).status.fault = false →
    (∀ k (h : k < fs.length), (before k).lineLen.toNat ≤ (before k).cfg.lineCap ∧
      frame ((List.range (before k).lineLen.toNat).map (before k).lineByte) = .ok fs[k] ∧
      exec .feed (before k) = .next (after k) ∧
      before (k + 1) = { after k with
        lineMem := (before (k + 1)).lineMem, lineLen := (before (k + 1)).lineLen, host := (before (k + 1)).host }) →
    (∀ k, k < fs.length → (after k).status.last = if k + 1 = fs.length then 1#4 else 2#4) ∧
    (after (fs.length - 1)).c0.buf = (fs.flatMap Fragment.payload).take (before 0).cfg.capChars ∧
    (after (fs.length - 1)).rs.inProgress = false

/-- R143: RS_RESET empties C0, zeroes RS and TAG, and changes nothing else but LAST. -/
def Obligations.RsResetEmptiesTheReassembler : Prop :=
  decode 0x21000000#32 = .ok .rsReset ∧
  ∀ s : State, s.status.fault = false →
    exec .rsReset s = .next { s with
      c0 := { buf := [], pos := 0, rem := 0#6, remBits := 0#3 }
      rs := { inProgress := false, total := 0#32, lastIdx := 0#32, seq := 0#32, chan := 0x00#8 }
      tag := 0#6
      status := { s.status with last := 0#4 } }

/-! ### Dispatcher (spec/42_dispatch.md) -/

/-- R149: DISPATCH fetches six bits from C0's current position into TAG and Y0, whatever the characters, and answers OK
for a known tag and UNKNOWN_TYPE for another, without a fault; C0's length drops by 6, or to 0. Where the characters left
are valid, the tag is the next six bits of the stream. An invalid one's bits are a draw (log entry 2). -/
def Obligations.DispatchClassifiesTheNextSixBits : Prop :=
  decode 0x30000000#32 = .ok .dispatch ∧
  ∀ s : State, s.status.fault = false → s.c0.Sound s.cfg.capChars →
    ∃ (t : State) (tag : Sextet), exec .dispatch s = .next t ∧
      t = { s with
        c0 := t.c0, tag := tag, y0 := BitVec.ofNat 64 tag.toNat, draws := t.draws
        status := { s.status with
          last := if tag.toNat ∈ s.cfg.knownTags then 0#4 else 7#4
          badchar := s.status.badchar ||
            ((s.c0.buf.drop s.c0.pos).take (t.c0.pos - s.c0.pos)).any (fun ch => (armor6 ch).isNone) } } ∧
      t.c0.buf = s.c0.buf ∧ t.c0.length = s.c0.length - 6 ∧
      ∀ bs, s.c0.bits = some bs → tag.toNat = numberOf (takeStream bs 6) ∧ t.c0.bits = some (bs.drop 6)

/-- R150: a DECODE after a DISPATCH from the start of the payload reads the same tag. -/
def Obligations.DispatchAndDecodeAgreeOnTheTag : Prop :=
  ∀ s t u : State,
    s.status.fault = false → s.c0.pos = 0 → s.c0.rem = 0#6 → s.c0.remBits = 0#3 →
    (∀ ch ∈ s.c0.buf.head?, (armor6 ch).isSome = true) →
    exec .dispatch s = .next t → exec .decode t = .next u → u.tag = t.tag ∧ u.y0 = t.y0

/-! ### Decoder (spec/44_decoders.md) -/

/-- R187, R189, R190: DECODE rewinds C0 and reads the tag, a draw where the first character is invalid; an unknown tag
gives UNKNOWN_TYPE, a known one without a layout is refused, and a payload length outside the layout's rule gives
LENGTH_ERR; REC keeps every word. The draw counter is the model's (log entry 2). -/
def Obligations.DecodeStopsBeforeTheRecord : Prop :=
  ∀ s : State, s.status.fault = false →
    let bad := s.c0.buf.head?.any (fun ch => (armor6 ch).isNone)
    ∃ tag : Sextet,
      (s.c0.buf = [] → tag = 0#6) ∧ (∀ ch g, s.c0.buf.head? = some ch → armor6 ch = some g → tag = g) ∧
      let u (code : BitVec 4) : State := { s with
        c0 := { buf := s.c0.buf, pos := min 1 s.c0.buf.length, rem := 0#6, remBits := 0#3 }
        tag := tag, y0 := BitVec.ofNat 64 tag.toNat, draws := s.draws + bad.toNat
        status := { s.status with last := code, badchar := s.status.badchar || bad } }
      (tag.toNat ∉ s.cfg.knownTags → exec .decode s = .next (u 7#4)) ∧
      (tag.toNat ∈ s.cfg.knownTags → s.cfg.layouts.lookup tag.toNat = none → exec .decode s = .refused .noLayout) ∧
      (∀ l, tag.toNat ∈ s.cfg.knownTags → s.cfg.layouts.lookup tag.toNat = some l →
        (match l.len with
          | .exact b => 6 * s.c0.buf.length ≠ b
          | .range lo hi => 6 * s.c0.buf.length < lo ∨ hi < 6 * s.c0.buf.length) →
        exec .decode s = .next (u 8#4))

/-- R184, R178, R197: DECODE of a 168-bit payload with tag 1 and the default layout fills the record field by field,
zero-fills the rest, leaves C0 at the end, and changes nothing else. -/
def Obligations.DecodeFillsThePositionReport : Prop :=
  ∀ (s : State) (bs : List Bool),
    s.status.fault = false → 1 ∈ s.cfg.knownTags → s.cfg.layouts.lookup 1 = some layout1 → 18 ≤ s.cfg.recWords →
    charsBits s.c0.buf = some bs → bs.length = 168 → numberOf (bs.take 6) = 1 →
    let field (at' n : Nat) := numberOf ((bs.drop at').take n)
    ∃ t, exec .decode s = .next t ∧
      t.recWord 0 = 1#32 ∧
      (∀ slot at' n, (slot, at', n) ∈ [(1, 6, 2), (2, 8, 30), (3, 38, 4), (4, 42, 8), (5, 50, 10), (6, 60, 1),
          (9, 116, 12), (10, 128, 9), (11, 137, 6), (12, 143, 4), (13, 147, 1), (14, 148, 1), (15, 149, 2), (16, 151, 3),
          (17, 154, 14)] →
        t.recWord slot = BitVec.ofNat 32 (field at' n)) ∧
      t.recWord 7 = (BitVec.ofNat 28 (field 61 28)).signExtend 32 ∧
      t.recWord 8 = (BitVec.ofNat 27 (field 89 27)).signExtend 32 ∧
      (∀ slot, 18 ≤ slot → slot < s.cfg.recWords → t.recWord slot = 0#32) ∧
      t = { s with
        c0 := { buf := s.c0.buf, pos := 28, rem := 0#6, remBits := 0#3 }
        tag := 1#6, y0 := 1#64, recMem := t.recMem, status := { s.status with last := 0#4 } }

/-- R184, R178, R182, R198: the same of a 426-bit payload with tag 5; the last two bits stay unread. -/
def Obligations.DecodeFillsTheStaticReport : Prop :=
  ∀ (s : State) (bs : List Bool),
    s.status.fault = false → 5 ∈ s.cfg.knownTags → s.cfg.layouts.lookup 5 = some layout5 → 62 ≤ s.cfg.recWords →
    charsBits s.c0.buf = some bs → bs.length = 426 → numberOf (bs.take 6) = 5 →
    let field (at' n : Nat) := numberOf ((bs.drop at').take n)
    let letter (at' : Nat) := if field at' 6 < 32 then field at' 6 + 64 else field at' 6
    ∃ t, exec .decode s = .next t ∧
      t.recWord 0 = 5#32 ∧
      (∀ slot at' n, (slot, at', n) ∈ [(1, 6, 2), (2, 8, 30), (3, 38, 2), (4, 40, 30), (32, 232, 8), (33, 240, 9),
          (34, 249, 9), (35, 258, 6), (36, 264, 6), (37, 270, 4), (38, 274, 20), (39, 294, 8), (60, 422, 1),
          (61, 423, 1)] →
        t.recWord slot = BitVec.ofNat 32 (field at' n)) ∧
      (∀ j, j < 7 → t.recWord (5 + j) = BitVec.ofNat 32 (letter (70 + 6 * j))) ∧
      (∀ j, j < 20 → t.recWord (12 + j) = BitVec.ofNat 32 (letter (112 + 6 * j)) ∧
        t.recWord (40 + j) = BitVec.ofNat 32 (letter (302 + 6 * j))) ∧
      (∀ slot, 62 ≤ slot → slot < s.cfg.recWords → t.recWord slot = 0#32) ∧
      t = { s with
        c0 := { buf := s.c0.buf, pos := 71, rem := BitVec.ofNat 6 (field 424 2), remBits := 2#3 }
        tag := 5#6, y0 := 5#64, recMem := t.recMem, status := { s.status with last := 0#4 } }

/-- R184, R175, R187, R191, R193: DECODE of a known tag with a layout whose length rule holds completes with OK, and where
every known tag has a layout DECODE never stops. An OK DECODE leaves the tag in REC[0], TAG and Y0, every other slot its
layout does not write at 0 where the layout zero-fills and as it was where it does not, C1 as it was where the layout has
no RESIDUAL, and C0's characters; BADCHAR may be raised; nothing else changes but the draw counter, which is the model's
(log entry 2). -/
def Obligations.DecodeWritesOnlyTheLayoutsSlots : Prop :=
  ∀ s : State, s.status.fault = false →
    (∀ (tag : Sextet) (l : Layout),
      (s.c0.buf = [] ∧ tag = 0#6 ∨ ∃ ch, s.c0.buf.head? = some ch ∧ armor6 ch = some tag) →
      tag.toNat ∈ s.cfg.knownTags → s.cfg.layouts.lookup tag.toNat = some l →
      (match l.len with
        | .exact b => 6 * s.c0.buf.length = b
        | .range lo hi => lo ≤ 6 * s.c0.buf.length ∧ 6 * s.c0.buf.length ≤ hi) →
      ∃ t, exec .decode s = .next t ∧ t.tag = tag ∧ t.status.last = 0#4) ∧
    ((∀ tag ∈ s.cfg.knownTags, (s.cfg.layouts.lookup tag).isSome = true) → ∃ t, exec .decode s = .next t) ∧
    ∀ (t : State) (l : Layout), exec .decode s = .next t → t.status.last = 0#4 →
      s.cfg.layouts.lookup t.tag.toNat = some l →
      (∀ slot, slot < s.cfg.recWords → slot ∉ l.descs.slots 0 →
        t.recWord slot =
          if slot = 0 then BitVec.ofNat 32 t.tag.toNat else if l.zeroFill then 0#32 else s.recWord slot) ∧
      (l.descs.anyKind Desc.isResidual = false → t.c1 = s.c1) ∧
      t.c0.buf = s.c0.buf ∧ (s.status.badchar = true → t.status.badchar = true) ∧
      t = { s with
        c0 := t.c0, c1 := t.c1, tag := t.tag, y0 := BitVec.ofNat 64 t.tag.toNat, recMem := t.recMem, draws := t.draws
        status := { s.status with last := 0#4, badchar := t.status.badchar } }

/-- R192, R194: where the layout ends with RESIDUAL, an OK DECODE leaves the residual length in its slot and C1 a copy of
C0. -/
def Obligations.ResidualHandsTheRestToC1 : Prop :=
  ∀ (s t : State) (l : Layout) (slot : Nat),
    s.status.fault = false → exec .decode s = .next t → t.status.last = 0#4 →
    s.cfg.layouts.lookup t.tag.toNat = some l → l.descs.toList.getLast? = some (.residual slot) →
    slot < s.cfg.recWords →
    t.c1 = t.c0 ∧ t.recWord slot = BitVec.ofNat 32 (t.c0.remBits.toNat + 6 * (t.c0.buf.length - t.c0.pos))

/-- R188, R173, R177: REPEAT reads n = min(max, L / W) sub-records where L bits are left and the sub-record is W wide: it
runs `sub` at base + i × stride for i = 0 to n - 1, stores n in its count slot, and leaves the other bits unread. Where
`sub` is a list of U fields that share no slot with another pass, each field of each pass lands in its own slot. -/
def Obligations.RepeatReadsWhatFits : Prop :=
  ∀ (s : State) (c max stride base w : Nat) (sub : Descs),
    s.c0.Sound s.cfg.capChars → sub.width? = some w → 1 ≤ w → sub.paramsOk = true → base + c < s.cfg.recWords →
    let n := min max (s.c0.length / w)
    let passes := (List.range n).foldl (fun u i => runDescs sub (base + i * stride) u) s
    let t := runDesc (.rept c max sub stride) base s
    (∀ slot, t.recWord slot = if slot = base + c then BitVec.ofNat 32 n else passes.recWord slot) ∧
    t = { passes with recMem := t.recMem } ∧ t.c0.length = s.c0.length - n * w ∧
    ∀ (fields : List (Nat × Nat)) (lo : Nat) (bs : List Bool),
      sub = descs (fields.map (fun f => .u f.1 f.2)) → (fields.map Prod.snd).Nodup →
      (∀ f ∈ fields, lo ≤ f.2 ∧ f.2 < lo + stride) → (c < lo ∨ lo + max * stride ≤ c) → s.c0.bits = some bs →
      ∀ i k (h : k < fields.length), i < n → base + i * stride + fields[k].2 < s.cfg.recWords →
        t.recWord (base + i * stride + fields[k].2) = BitVec.ofNat 32
          (numberOf ((bs.drop (i * w + ((fields.take k).map Prod.fst).sum)).take fields[k].1))

/-- R193: a type 24 payload's part number, which the header leaves in slot p, selects the half, and the flags slot
accumulates bit 0 for part A and bit 1 for part B; parts 2 and 3 leave it alone. The part number is one of 0 to 3, and
slot p still holds it where the halves do not write p. -/
def Obligations.Type24FlagsAccumulate : Prop :=
  ∀ (s t : State) (len : LenRule) (header : List Desc) (a b : List Desc) (p g : Nat),
    s.status.fault = false → s.cfg.wf = true →
    s.cfg.layouts.lookup 24 = some ⟨len, false, descs (header ++
      [.case p (.cons 0#32 (descs (a ++ [.flagor g 1#32]))
        (.cons 1#32 (descs (b ++ [.flagor g 2#32])) .nil)) .nil])⟩ →
    exec .decode s = .next t → t.tag = 24#6 → t.status.last = 0#4 →
    ∃ part : Word, part.toNat < 4 ∧
      (p ∉ (descs a).slots 0 → p ∉ (descs b).slots 0 → t.recWord p = part) ∧
      t.recWord g =
        if part = 0#32 then s.recWord g ||| 1#32
        else if part = 1#32 then s.recWord g ||| 2#32
        else s.recWord g

/-- R195: REC_CLEAR zeroes every word of REC and changes nothing else but LAST. -/
def Obligations.RecClearZeroesTheRecord : Prop :=
  decode 0x32000000#32 = .ok .recClear ∧
  ∀ s : State, s.status.fault = false →
    ∃ t, exec .recClear s = .next t ∧ (∀ i, i < s.cfg.recWords → t.recWord i = 0#32) ∧
      t = { s with recMem := t.recMem, status := { s.status with last := 0#4 } }

/-! ### Converters (spec/43_convert.md) -/

/-- R156, R157, R158: SIGNREC with a single-bit mask 2^k and a value of k + 1 bits gives the two's-complement reading;
another mask, or a wider value, raises BAD_OPERAND and changes nothing else. -/
def Obligations.SignrecReadsTwosComplement : Prop :=
  decode 0x40000000#32 = .ok .signrec ∧
  ∀ s : State, s.status.fault = false →
    (∀ k, k < 32 → s.argB.toNat = 2 ^ k → s.argA.toNat < 2 ^ (k + 1) →
      exec .signrec s = .next { s with
        y0 := BitVec.ofInt 64
          (if 2 ^ k ≤ s.argA.toNat then (s.argA.toNat : Int) - 2 ^ (k + 1) else (s.argA.toNat : Int))
        status := { s.status with last := 0#4 } }) ∧
    (((∀ k, k < 32 → s.argB.toNat ≠ 2 ^ k) ∨ 2 * s.argB.toNat ≤ s.argA.toNat) →
      exec .signrec s = .next { s with
        status := { s.status with last := 15#4, fault := true, faultCause := 4#4 } })

/-- R159, R160: POSREC and POSREC27 recover the signs of 27/28-bit and 17/18-bit pairs, the latter scaled by 1000 after;
a wider operand raises BAD_OPERAND and changes nothing else. -/
def Obligations.PositionRecoveryOfBothWidths : Prop :=
  decode 0x41000000#32 = .ok .posrec ∧ decode 0x42000000#32 = .ok .posrec27 ∧
  ∀ s : State, s.status.fault = false →
    let bad : State := { s with status := { s.status with last := 15#4, fault := true, faultCause := 4#4 } }
    (s.argA.toNat < 2 ^ 27 ∧ s.argB.toNat < 2 ^ 28 →
      exec .posrec s = .next { s with
        y0 := BitVec.ofInt 64 (BitVec.ofNat 27 s.argA.toNat).toInt
        y1 := BitVec.ofInt 64 (BitVec.ofNat 28 s.argB.toNat).toInt
        status := { s.status with last := 0#4 } }) ∧
    (2 ^ 27 ≤ s.argA.toNat ∨ 2 ^ 28 ≤ s.argB.toNat → exec .posrec s = .next bad) ∧
    (s.argA.toNat < 2 ^ 17 ∧ s.argB.toNat < 2 ^ 18 →
      exec .posrec27 s = .next { s with
        y0 := BitVec.ofInt 64 (1000 * (BitVec.ofNat 17 s.argA.toNat).toInt)
        y1 := BitVec.ofInt 64 (1000 * (BitVec.ofNat 18 s.argB.toNat).toInt)
        status := { s.status with last := 0#4 } }) ∧
    (2 ^ 17 ≤ s.argA.toNat ∨ 2 ^ 18 ≤ s.argB.toNat → exec .posrec27 s = .next bad)

/-- R162: DEG rounds twice: the fraction r / 600000, then whole + fraction; Y0 holds the result's sign in bit 63, its
biased exponent in bits 62:52 and its fraction in bits 51:0, and nothing else but LAST changes. -/
def Obligations.DegIsRoundedTwice : Prop :=
  decode 0x43000000#32 = .ok .deg ∧
  ∀ s : State, s.status.fault = false →
    let v := s.argA.toInt
    ∃ (frac sum : Bin64) (y : DWord),
      IsNearest (((v.tmod 600000 : Int) : ℚ) / 600000) frac ∧
      IsNearest (((v.tdiv 600000 : Int) : ℚ) + frac.toRat) sum ∧
      sum.HasPattern y ∧
      exec .deg s = .next { s with y0 := y, status := { s.status with last := 0#4 } }

/-- R163: DEGMIN's minutes are |r| / 10000 rounded once and non-negative, in Y0 (exponent in bits 62:52,
fraction in bits 51:0); whole, truncated toward zero, in Y1. -/
def Obligations.DegminIsRoundedOnce : Prop :=
  decode 0x44000000#32 = .ok .degmin ∧
  ∀ s : State, s.status.fault = false →
    let v := s.argA.toInt
    ∃ (minutes : Bin64) (y : DWord),
      IsNearest (|((v.tmod 600000 : Int) : ℚ)| / 10000) minutes ∧ minutes.neg = false ∧
      minutes.HasPattern y ∧
      exec .degmin s = .next { s with
        y0 := y, y1 := BitVec.ofInt 64 (v.tdiv 600000), status := { s.status with last := 0#4 } }

/-- R165 to R167: ASCII6 of the low six bits; the map is a bijection onto 0x20..0x5F. -/
def Obligations.Ascii6MapsOntoThePrintableRange : Prop :=
  decode 0x45000000#32 = .ok .ascii6 ∧
  (∀ v, ascii6 v = if v % 64 < 0x20 then v % 64 + 0x40 else v % 64) ∧
  (∀ s : State, s.status.fault = false →
    exec .ascii6 s = .next { s with
      y0 := BitVec.ofNat 64
        (if s.argA.toNat % 64 < 0x20 then s.argA.toNat % 64 + 0x40 else s.argA.toNat % 64)
      status := { s.status with last := 0#4 } }) ∧
  (∀ c, 0x20 ≤ c → c ≤ 0x5F → ∃ v, v < 64 ∧ ascii6 v = c ∧ ∀ v', v' < 64 → ascii6 v' = c → v' = v) ∧
  (∀ v, 0x20 ≤ ascii6 v ∧ ascii6 v ≤ 0x5F)

/-- R168: ARMOR6 of ARG_A[7:0]: the group, or the all-ones sentinel; BADCHAR is not touched. -/
def Obligations.Armor6GivesTheGroupOrTheSentinel : Prop :=
  decode 0x46000000#32 = .ok .armor6 ∧
  ∀ s : State, s.status.fault = false →
    let c := s.argA.toNat % 256
    exec .armor6 s = .next { s with
      y0 :=
        if 0x30 ≤ c ∧ c ≤ 0x57 then BitVec.ofNat 64 (c - 0x30)
        else if 0x60 ≤ c ∧ c ≤ 0x77 then BitVec.ofNat 64 (c - 0x38)
        else 0xFFFFFFFFFFFFFFFF#64
      status := { s.status with last := 0#4 } }

/-! ### Whole-machine rules -/

/-- R229: which commands leave both Y registers, which write Y0 only. -/
def Obligations.OnlySomeCommandsWriteTheResultRegisters : Prop :=
  ∀ (i : Instr) (s t : State), exec i s = .next t →
    (i ∉ [.reset, .posrec, .posrec27, .degmin] → t.y1 = s.y1) ∧
    (i ∈ [.feed, .rsReset, .bcSnapshot, .recClear, .nop, .clrflags] ∨
      (∃ c, i ∈ [.bcInit c, .bcClear c, .bcAppend c]) → t.y0 = s.y0 ∧ t.y1 = s.y1)

/-- R24 to R29: only FEED and RS_RESET write RS, only DECODE and REC_CLEAR write REC, only DISPATCH, DECODE and RS_RESET
write TAG, and no command writes LINE or an operand register, RESET apart. -/
def Obligations.EachStateElementHasItsWriters : Prop :=
  ∀ (i : Instr) (s t : State), exec i s = .next t → i ≠ .reset →
    (i ∉ [.feed, .rsReset] → t.rs = s.rs) ∧
    (i ∉ [.decode, .recClear] → ∀ j, t.recWord j = s.recWord j) ∧
    (i ∉ [.dispatch, .decode, .rsReset] → t.tag = s.tag) ∧
    (∀ j, t.lineByte j = s.lineByte j) ∧
    t.argA = s.argA ∧ t.argB = s.argB ∧ t.lineLen = s.lineLen ∧ t.host = s.host

/-- R205, R206: the codes each command can leave in STATUS.LAST; 9 to 14 are never produced, and none but 15 comes with a
fault. -/
def Obligations.EachCommandHasItsResultCodes : Prop :=
  ∀ (i : Instr) (s t : State), s.status.fault = false → exec i s = .next t →
    (t.status.fault = true ↔ t.status.last = 15#4) ∧
    (t.status.fault = false →
      if i = .feed then 1 ≤ t.status.last.toNat ∧ t.status.last.toNat ≤ 6
      else if i = .dispatch then t.status.last = 0#4 ∨ t.status.last = 7#4
      else if i = .decode then t.status.last = 0#4 ∨ t.status.last = 7#4 ∨ t.status.last = 8#4
      else t.status.last = 0#4)

/-- R30, R31: the sticky flags are cleared by CLRFLAGS and reset only. -/
def Obligations.StickyFlagsStaySet : Prop :=
  ∀ (i : Instr) (s t : State), exec i s = .next t → i ≠ .clrflags → i ≠ .reset →
    (s.status.badchar = true → t.status.badchar = true) ∧ (s.status.overflow = true → t.status.overflow = true)

/-- R62: LDLINE loads a text that fits LINE, and its length, one access after the other. -/
def Obligations.LdlineLoadsTheLine : Prop :=
  ∀ (s : State) (text : List Byte) (es rest : List Event),
    s.cfg.wf = true → asmLdline s.cfg text = some es → s.host.pending = es ++ rest →
    ∃ t, core.run (text.length + 1) s = .next t ∧ t.lineLen.toNat = text.length ∧
      (∀ i (h : i < text.length), t.lineByte i = text[i]) ∧ (∀ i, text.length ≤ i → t.lineByte i = s.lineByte i) ∧
      t.host.pending = rest ∧ t = { s with lineMem := t.lineMem, lineLen := t.lineLen, host := t.host }

/-- R178, R177, R176, R180, R182, R183, R186, R192: what each descriptor kind but REPEAT stores and consumes, on a cursor
whose characters left are valid and whose stream is `bs` (zeros after its end): its slot is base + s, and no other slot
and no other part of the state changes. A list runs in order. -/
def Obligations.DescriptorsStoreWhatTheirKindSays : Prop :=
  ∀ (s : State) (base slot : Nat) (bs : List Bool),
    s.c0.Sound s.cfg.capChars → s.c0.bits = some bs →
    let v (n : Nat) : Nat := numberOf (takeStream bs n)
    (∀ (w n : Nat) (d : Desc) (value : Word), 1 ≤ w → w ≤ 32 → base + slot < s.cfg.recWords →
      (d, n, value) ∈
        [ (Desc.u w slot, w, BitVec.ofNat 32 (v w)),
          (.s w slot, w, BitVec.ofInt 32 (if 2 ^ (w - 1) ≤ v w then (v w : Int) - 2 ^ w else (v w : Int))),
          (.lat27 slot, 27, (BitVec.ofNat 27 (v 27)).signExtend 32),
          (.lon28 slot, 28, (BitVec.ofNat 28 (v 28)).signExtend 32),
          (.lat17 slot, 17, BitVec.ofInt 32 (1000 * (BitVec.ofNat 17 (v 17)).toInt)),
          (.lon18 slot, 18, BitVec.ofInt 32 (1000 * (BitVec.ofNat 18 (v 18)).toInt)) ] →
      let t := runDesc d base s
      (∀ j, t.recWord j = if j = base + slot then value else s.recWord j) ∧
      t.c0.bits = some (bs.drop n) ∧ t.c0.buf = s.c0.buf ∧ t = { s with c0 := t.c0, recMem := t.recMem }) ∧
    (∀ k, base + slot + k ≤ s.cfg.recWords →
      let t := runDesc (.text k slot) base s
      let raw (j : Nat) : Nat := numberOf (takeStream (bs.drop (6 * j)) 6)
      let letter (j : Nat) : Nat := if raw j < 0x20 then raw j + 0x40 else raw j
      (∀ j, t.recWord j =
        if base + slot ≤ j ∧ j < base + slot + k then BitVec.ofNat 32 (letter (j - (base + slot))) else s.recWord j) ∧
      t.c0.bits = some (bs.drop (6 * k)) ∧ t.c0.buf = s.c0.buf ∧ t = { s with c0 := t.c0, recMem := t.recMem }) ∧
    (∀ w, 1 ≤ w →
      let t := runDesc (.skip w) base s
      t.c0.bits = some (bs.drop w) ∧ t.c0.buf = s.c0.buf ∧ t = { s with c0 := t.c0 }) ∧
    (∀ m, base + slot < s.cfg.recWords →
      let t := runDesc (.flagor slot m) base s
      (∀ j, t.recWord j = if j = base + slot then s.recWord j ||| m else s.recWord j) ∧
      t = { s with recMem := t.recMem }) ∧
    (base + slot < s.cfg.recWords →
      let t := runDesc (.residual slot) base s
      (∀ j, t.recWord j = if j = base + slot then BitVec.ofNat 32 bs.length else s.recWord j) ∧
      t = { s with c1 := s.c0, recMem := t.recMem }) ∧
    (∀ d0 d1, runDesc (.sel slot d0 d1) base s =
      if s.recWord (base + slot) = 0#32 then runDescs d0 base s else runDescs d1 base s) ∧
    (∀ dflt, runDesc (.case slot .nil dflt) base s = runDescs dflt base s) ∧
    (∀ value ds rest dflt, runDesc (.case slot (.cons value ds rest) dflt) base s =
      if value = s.recWord (base + slot) then runDescs ds base s else runDesc (.case slot rest dflt) base s) ∧
    (∀ d ds, runDescs (.cons d ds) base s = runDescs ds base (runDesc d base s))
end

