-- ==== Sys2Proof/Laws/State.lean ====
section
/-! SUPPORT. What each update of the state leaves in each field, one lemma a field, so that no later proof unfolds a
record update. -/

namespace Sys2Proof.Machine

/-! ### setLast -/

@[simp] theorem State.setLast_cfg (s : State) (r : ResultCode) : (s.setLast r).cfg = s.cfg := rfl
@[simp] theorem State.setLast_c0 (s : State) (r : ResultCode) : (s.setLast r).c0 = s.c0 := rfl
@[simp] theorem State.setLast_c1 (s : State) (r : ResultCode) : (s.setLast r).c1 = s.c1 := rfl
@[simp] theorem State.setLast_rs (s : State) (r : ResultCode) : (s.setLast r).rs = s.rs := rfl
@[simp] theorem State.setLast_tag (s : State) (r : ResultCode) : (s.setLast r).tag = s.tag := rfl
@[simp] theorem State.setLast_argA (s : State) (r : ResultCode) : (s.setLast r).argA = s.argA := rfl
@[simp] theorem State.setLast_argB (s : State) (r : ResultCode) : (s.setLast r).argB = s.argB := rfl
@[simp] theorem State.setLast_lineLen (s : State) (r : ResultCode) : (s.setLast r).lineLen = s.lineLen := rfl
@[simp] theorem State.setLast_y0 (s : State) (r : ResultCode) : (s.setLast r).y0 = s.y0 := rfl
@[simp] theorem State.setLast_y1 (s : State) (r : ResultCode) : (s.setLast r).y1 = s.y1 := rfl
@[simp] theorem State.setLast_lineMem (s : State) (r : ResultCode) : (s.setLast r).lineMem = s.lineMem := rfl
@[simp] theorem State.setLast_recMem (s : State) (r : ResultCode) : (s.setLast r).recMem = s.recMem := rfl
@[simp] theorem State.setLast_status (s : State) (r : ResultCode) : (s.setLast r).status = { s.status with last := r.code } := rfl
@[simp] theorem State.setLast_host (s : State) (r : ResultCode) : (s.setLast r).host = s.host := rfl
@[simp] theorem State.setLast_resets (s : State) (r : ResultCode) : (s.setLast r).resets = s.resets := rfl
@[simp] theorem State.setLast_draws (s : State) (r : ResultCode) : (s.setLast r).draws = s.draws := rfl

/-! ### setBadchar -/

@[simp] theorem State.setBadchar_cfg (s : State) (b : Bool) : (s.setBadchar b).cfg = s.cfg := rfl
@[simp] theorem State.setBadchar_c0 (s : State) (b : Bool) : (s.setBadchar b).c0 = s.c0 := rfl
@[simp] theorem State.setBadchar_c1 (s : State) (b : Bool) : (s.setBadchar b).c1 = s.c1 := rfl
@[simp] theorem State.setBadchar_rs (s : State) (b : Bool) : (s.setBadchar b).rs = s.rs := rfl
@[simp] theorem State.setBadchar_tag (s : State) (b : Bool) : (s.setBadchar b).tag = s.tag := rfl
@[simp] theorem State.setBadchar_argA (s : State) (b : Bool) : (s.setBadchar b).argA = s.argA := rfl
@[simp] theorem State.setBadchar_argB (s : State) (b : Bool) : (s.setBadchar b).argB = s.argB := rfl
@[simp] theorem State.setBadchar_lineLen (s : State) (b : Bool) : (s.setBadchar b).lineLen = s.lineLen := rfl
@[simp] theorem State.setBadchar_y0 (s : State) (b : Bool) : (s.setBadchar b).y0 = s.y0 := rfl
@[simp] theorem State.setBadchar_y1 (s : State) (b : Bool) : (s.setBadchar b).y1 = s.y1 := rfl
@[simp] theorem State.setBadchar_lineMem (s : State) (b : Bool) : (s.setBadchar b).lineMem = s.lineMem := rfl
@[simp] theorem State.setBadchar_recMem (s : State) (b : Bool) : (s.setBadchar b).recMem = s.recMem := rfl
@[simp] theorem State.setBadchar_status (s : State) (b : Bool) : (s.setBadchar b).status = { s.status with badchar := b } := rfl
@[simp] theorem State.setBadchar_host (s : State) (b : Bool) : (s.setBadchar b).host = s.host := rfl
@[simp] theorem State.setBadchar_resets (s : State) (b : Bool) : (s.setBadchar b).resets = s.resets := rfl
@[simp] theorem State.setBadchar_draws (s : State) (b : Bool) : (s.setBadchar b).draws = s.draws := rfl

/-! ### setOverflow -/

@[simp] theorem State.setOverflow_cfg (s : State) (b : Bool) : (s.setOverflow b).cfg = s.cfg := rfl
@[simp] theorem State.setOverflow_c0 (s : State) (b : Bool) : (s.setOverflow b).c0 = s.c0 := rfl
@[simp] theorem State.setOverflow_c1 (s : State) (b : Bool) : (s.setOverflow b).c1 = s.c1 := rfl
@[simp] theorem State.setOverflow_rs (s : State) (b : Bool) : (s.setOverflow b).rs = s.rs := rfl
@[simp] theorem State.setOverflow_tag (s : State) (b : Bool) : (s.setOverflow b).tag = s.tag := rfl
@[simp] theorem State.setOverflow_argA (s : State) (b : Bool) : (s.setOverflow b).argA = s.argA := rfl
@[simp] theorem State.setOverflow_argB (s : State) (b : Bool) : (s.setOverflow b).argB = s.argB := rfl
@[simp] theorem State.setOverflow_lineLen (s : State) (b : Bool) : (s.setOverflow b).lineLen = s.lineLen := rfl
@[simp] theorem State.setOverflow_y0 (s : State) (b : Bool) : (s.setOverflow b).y0 = s.y0 := rfl
@[simp] theorem State.setOverflow_y1 (s : State) (b : Bool) : (s.setOverflow b).y1 = s.y1 := rfl
@[simp] theorem State.setOverflow_lineMem (s : State) (b : Bool) : (s.setOverflow b).lineMem = s.lineMem := rfl
@[simp] theorem State.setOverflow_recMem (s : State) (b : Bool) : (s.setOverflow b).recMem = s.recMem := rfl
@[simp] theorem State.setOverflow_status (s : State) (b : Bool) : (s.setOverflow b).status = { s.status with overflow := b } := rfl
@[simp] theorem State.setOverflow_host (s : State) (b : Bool) : (s.setOverflow b).host = s.host := rfl
@[simp] theorem State.setOverflow_resets (s : State) (b : Bool) : (s.setOverflow b).resets = s.resets := rfl
@[simp] theorem State.setOverflow_draws (s : State) (b : Bool) : (s.setOverflow b).draws = s.draws := rfl

/-! ### raiseFault -/

@[simp] theorem State.raiseFault_cfg (s : State) (k : FaultCause) : (s.raiseFault k).cfg = s.cfg := rfl
@[simp] theorem State.raiseFault_c0 (s : State) (k : FaultCause) : (s.raiseFault k).c0 = s.c0 := rfl
@[simp] theorem State.raiseFault_c1 (s : State) (k : FaultCause) : (s.raiseFault k).c1 = s.c1 := rfl
@[simp] theorem State.raiseFault_rs (s : State) (k : FaultCause) : (s.raiseFault k).rs = s.rs := rfl
@[simp] theorem State.raiseFault_tag (s : State) (k : FaultCause) : (s.raiseFault k).tag = s.tag := rfl
@[simp] theorem State.raiseFault_argA (s : State) (k : FaultCause) : (s.raiseFault k).argA = s.argA := rfl
@[simp] theorem State.raiseFault_argB (s : State) (k : FaultCause) : (s.raiseFault k).argB = s.argB := rfl
@[simp] theorem State.raiseFault_lineLen (s : State) (k : FaultCause) : (s.raiseFault k).lineLen = s.lineLen := rfl
@[simp] theorem State.raiseFault_y0 (s : State) (k : FaultCause) : (s.raiseFault k).y0 = s.y0 := rfl
@[simp] theorem State.raiseFault_y1 (s : State) (k : FaultCause) : (s.raiseFault k).y1 = s.y1 := rfl
@[simp] theorem State.raiseFault_lineMem (s : State) (k : FaultCause) : (s.raiseFault k).lineMem = s.lineMem := rfl
@[simp] theorem State.raiseFault_recMem (s : State) (k : FaultCause) : (s.raiseFault k).recMem = s.recMem := rfl
@[simp] theorem State.raiseFault_status (s : State) (k : FaultCause) : (s.raiseFault k).status = { s.status with fault := true, faultCause := k.code, last := 15#4 } := rfl
@[simp] theorem State.raiseFault_host (s : State) (k : FaultCause) : (s.raiseFault k).host = s.host := rfl
@[simp] theorem State.raiseFault_resets (s : State) (k : FaultCause) : (s.raiseFault k).resets = s.resets := rfl
@[simp] theorem State.raiseFault_draws (s : State) (k : FaultCause) : (s.raiseFault k).draws = s.draws := rfl

/-! ### setRs -/

@[simp] theorem State.setRs_cfg (s : State) (r : Rs) : (s.setRs r).cfg = s.cfg := rfl
@[simp] theorem State.setRs_c0 (s : State) (r : Rs) : (s.setRs r).c0 = s.c0 := rfl
@[simp] theorem State.setRs_c1 (s : State) (r : Rs) : (s.setRs r).c1 = s.c1 := rfl
@[simp] theorem State.setRs_rs (s : State) (r : Rs) : (s.setRs r).rs = r := rfl
@[simp] theorem State.setRs_tag (s : State) (r : Rs) : (s.setRs r).tag = s.tag := rfl
@[simp] theorem State.setRs_argA (s : State) (r : Rs) : (s.setRs r).argA = s.argA := rfl
@[simp] theorem State.setRs_argB (s : State) (r : Rs) : (s.setRs r).argB = s.argB := rfl
@[simp] theorem State.setRs_lineLen (s : State) (r : Rs) : (s.setRs r).lineLen = s.lineLen := rfl
@[simp] theorem State.setRs_y0 (s : State) (r : Rs) : (s.setRs r).y0 = s.y0 := rfl
@[simp] theorem State.setRs_y1 (s : State) (r : Rs) : (s.setRs r).y1 = s.y1 := rfl
@[simp] theorem State.setRs_lineMem (s : State) (r : Rs) : (s.setRs r).lineMem = s.lineMem := rfl
@[simp] theorem State.setRs_recMem (s : State) (r : Rs) : (s.setRs r).recMem = s.recMem := rfl
@[simp] theorem State.setRs_status (s : State) (r : Rs) : (s.setRs r).status = s.status := rfl
@[simp] theorem State.setRs_host (s : State) (r : Rs) : (s.setRs r).host = s.host := rfl
@[simp] theorem State.setRs_resets (s : State) (r : Rs) : (s.setRs r).resets = s.resets := rfl
@[simp] theorem State.setRs_draws (s : State) (r : Rs) : (s.setRs r).draws = s.draws := rfl

/-! ### setTag -/

@[simp] theorem State.setTag_cfg (s : State) (t : Sextet) : (s.setTag t).cfg = s.cfg := rfl
@[simp] theorem State.setTag_c0 (s : State) (t : Sextet) : (s.setTag t).c0 = s.c0 := rfl
@[simp] theorem State.setTag_c1 (s : State) (t : Sextet) : (s.setTag t).c1 = s.c1 := rfl
@[simp] theorem State.setTag_rs (s : State) (t : Sextet) : (s.setTag t).rs = s.rs := rfl
@[simp] theorem State.setTag_tag (s : State) (t : Sextet) : (s.setTag t).tag = t := rfl
@[simp] theorem State.setTag_argA (s : State) (t : Sextet) : (s.setTag t).argA = s.argA := rfl
@[simp] theorem State.setTag_argB (s : State) (t : Sextet) : (s.setTag t).argB = s.argB := rfl
@[simp] theorem State.setTag_lineLen (s : State) (t : Sextet) : (s.setTag t).lineLen = s.lineLen := rfl
@[simp] theorem State.setTag_y0 (s : State) (t : Sextet) : (s.setTag t).y0 = s.y0 := rfl
@[simp] theorem State.setTag_y1 (s : State) (t : Sextet) : (s.setTag t).y1 = s.y1 := rfl
@[simp] theorem State.setTag_lineMem (s : State) (t : Sextet) : (s.setTag t).lineMem = s.lineMem := rfl
@[simp] theorem State.setTag_recMem (s : State) (t : Sextet) : (s.setTag t).recMem = s.recMem := rfl
@[simp] theorem State.setTag_status (s : State) (t : Sextet) : (s.setTag t).status = s.status := rfl
@[simp] theorem State.setTag_host (s : State) (t : Sextet) : (s.setTag t).host = s.host := rfl
@[simp] theorem State.setTag_resets (s : State) (t : Sextet) : (s.setTag t).resets = s.resets := rfl
@[simp] theorem State.setTag_draws (s : State) (t : Sextet) : (s.setTag t).draws = s.draws := rfl

/-! ### setY0 -/

@[simp] theorem State.setY0_cfg (s : State) (v : DWord) : (s.setY0 v).cfg = s.cfg := rfl
@[simp] theorem State.setY0_c0 (s : State) (v : DWord) : (s.setY0 v).c0 = s.c0 := rfl
@[simp] theorem State.setY0_c1 (s : State) (v : DWord) : (s.setY0 v).c1 = s.c1 := rfl
@[simp] theorem State.setY0_rs (s : State) (v : DWord) : (s.setY0 v).rs = s.rs := rfl
@[simp] theorem State.setY0_tag (s : State) (v : DWord) : (s.setY0 v).tag = s.tag := rfl
@[simp] theorem State.setY0_argA (s : State) (v : DWord) : (s.setY0 v).argA = s.argA := rfl
@[simp] theorem State.setY0_argB (s : State) (v : DWord) : (s.setY0 v).argB = s.argB := rfl
@[simp] theorem State.setY0_lineLen (s : State) (v : DWord) : (s.setY0 v).lineLen = s.lineLen := rfl
@[simp] theorem State.setY0_y0 (s : State) (v : DWord) : (s.setY0 v).y0 = v := rfl
@[simp] theorem State.setY0_y1 (s : State) (v : DWord) : (s.setY0 v).y1 = s.y1 := rfl
@[simp] theorem State.setY0_lineMem (s : State) (v : DWord) : (s.setY0 v).lineMem = s.lineMem := rfl
@[simp] theorem State.setY0_recMem (s : State) (v : DWord) : (s.setY0 v).recMem = s.recMem := rfl
@[simp] theorem State.setY0_status (s : State) (v : DWord) : (s.setY0 v).status = s.status := rfl
@[simp] theorem State.setY0_host (s : State) (v : DWord) : (s.setY0 v).host = s.host := rfl
@[simp] theorem State.setY0_resets (s : State) (v : DWord) : (s.setY0 v).resets = s.resets := rfl
@[simp] theorem State.setY0_draws (s : State) (v : DWord) : (s.setY0 v).draws = s.draws := rfl

/-! ### setY1 -/

@[simp] theorem State.setY1_cfg (s : State) (v : DWord) : (s.setY1 v).cfg = s.cfg := rfl
@[simp] theorem State.setY1_c0 (s : State) (v : DWord) : (s.setY1 v).c0 = s.c0 := rfl
@[simp] theorem State.setY1_c1 (s : State) (v : DWord) : (s.setY1 v).c1 = s.c1 := rfl
@[simp] theorem State.setY1_rs (s : State) (v : DWord) : (s.setY1 v).rs = s.rs := rfl
@[simp] theorem State.setY1_tag (s : State) (v : DWord) : (s.setY1 v).tag = s.tag := rfl
@[simp] theorem State.setY1_argA (s : State) (v : DWord) : (s.setY1 v).argA = s.argA := rfl
@[simp] theorem State.setY1_argB (s : State) (v : DWord) : (s.setY1 v).argB = s.argB := rfl
@[simp] theorem State.setY1_lineLen (s : State) (v : DWord) : (s.setY1 v).lineLen = s.lineLen := rfl
@[simp] theorem State.setY1_y0 (s : State) (v : DWord) : (s.setY1 v).y0 = s.y0 := rfl
@[simp] theorem State.setY1_y1 (s : State) (v : DWord) : (s.setY1 v).y1 = v := rfl
@[simp] theorem State.setY1_lineMem (s : State) (v : DWord) : (s.setY1 v).lineMem = s.lineMem := rfl
@[simp] theorem State.setY1_recMem (s : State) (v : DWord) : (s.setY1 v).recMem = s.recMem := rfl
@[simp] theorem State.setY1_status (s : State) (v : DWord) : (s.setY1 v).status = s.status := rfl
@[simp] theorem State.setY1_host (s : State) (v : DWord) : (s.setY1 v).host = s.host := rfl
@[simp] theorem State.setY1_resets (s : State) (v : DWord) : (s.setY1 v).resets = s.resets := rfl
@[simp] theorem State.setY1_draws (s : State) (v : DWord) : (s.setY1 v).draws = s.draws := rfl

/-! ### putLine -/

@[simp] theorem State.putLine_cfg (s : State) (i : Nat) (v : Byte) : (s.putLine i v).cfg = s.cfg := rfl
@[simp] theorem State.putLine_c0 (s : State) (i : Nat) (v : Byte) : (s.putLine i v).c0 = s.c0 := rfl
@[simp] theorem State.putLine_c1 (s : State) (i : Nat) (v : Byte) : (s.putLine i v).c1 = s.c1 := rfl
@[simp] theorem State.putLine_rs (s : State) (i : Nat) (v : Byte) : (s.putLine i v).rs = s.rs := rfl
@[simp] theorem State.putLine_tag (s : State) (i : Nat) (v : Byte) : (s.putLine i v).tag = s.tag := rfl
@[simp] theorem State.putLine_argA (s : State) (i : Nat) (v : Byte) : (s.putLine i v).argA = s.argA := rfl
@[simp] theorem State.putLine_argB (s : State) (i : Nat) (v : Byte) : (s.putLine i v).argB = s.argB := rfl
@[simp] theorem State.putLine_lineLen (s : State) (i : Nat) (v : Byte) : (s.putLine i v).lineLen = s.lineLen := rfl
@[simp] theorem State.putLine_y0 (s : State) (i : Nat) (v : Byte) : (s.putLine i v).y0 = s.y0 := rfl
@[simp] theorem State.putLine_y1 (s : State) (i : Nat) (v : Byte) : (s.putLine i v).y1 = s.y1 := rfl
@[simp] theorem State.putLine_lineMem (s : State) (i : Nat) (v : Byte) : (s.putLine i v).lineMem = s.lineMem.put i v := rfl
@[simp] theorem State.putLine_recMem (s : State) (i : Nat) (v : Byte) : (s.putLine i v).recMem = s.recMem := rfl
@[simp] theorem State.putLine_status (s : State) (i : Nat) (v : Byte) : (s.putLine i v).status = s.status := rfl
@[simp] theorem State.putLine_host (s : State) (i : Nat) (v : Byte) : (s.putLine i v).host = s.host := rfl
@[simp] theorem State.putLine_resets (s : State) (i : Nat) (v : Byte) : (s.putLine i v).resets = s.resets := rfl
@[simp] theorem State.putLine_draws (s : State) (i : Nat) (v : Byte) : (s.putLine i v).draws = s.draws := rfl

/-! ### putRec -/

@[simp] theorem State.putRec_cfg (s : State) (i : Nat) (v : Word) : (s.putRec i v).cfg = s.cfg := by unfold State.putRec; split <;> rfl
@[simp] theorem State.putRec_c0 (s : State) (i : Nat) (v : Word) : (s.putRec i v).c0 = s.c0 := by unfold State.putRec; split <;> rfl
@[simp] theorem State.putRec_c1 (s : State) (i : Nat) (v : Word) : (s.putRec i v).c1 = s.c1 := by unfold State.putRec; split <;> rfl
@[simp] theorem State.putRec_rs (s : State) (i : Nat) (v : Word) : (s.putRec i v).rs = s.rs := by unfold State.putRec; split <;> rfl
@[simp] theorem State.putRec_tag (s : State) (i : Nat) (v : Word) : (s.putRec i v).tag = s.tag := by unfold State.putRec; split <;> rfl
@[simp] theorem State.putRec_argA (s : State) (i : Nat) (v : Word) : (s.putRec i v).argA = s.argA := by unfold State.putRec; split <;> rfl
@[simp] theorem State.putRec_argB (s : State) (i : Nat) (v : Word) : (s.putRec i v).argB = s.argB := by unfold State.putRec; split <;> rfl
@[simp] theorem State.putRec_lineLen (s : State) (i : Nat) (v : Word) : (s.putRec i v).lineLen = s.lineLen := by unfold State.putRec; split <;> rfl
@[simp] theorem State.putRec_y0 (s : State) (i : Nat) (v : Word) : (s.putRec i v).y0 = s.y0 := by unfold State.putRec; split <;> rfl
@[simp] theorem State.putRec_y1 (s : State) (i : Nat) (v : Word) : (s.putRec i v).y1 = s.y1 := by unfold State.putRec; split <;> rfl
@[simp] theorem State.putRec_lineMem (s : State) (i : Nat) (v : Word) : (s.putRec i v).lineMem = s.lineMem := by unfold State.putRec; split <;> rfl
@[simp] theorem State.putRec_status (s : State) (i : Nat) (v : Word) : (s.putRec i v).status = s.status := by unfold State.putRec; split <;> rfl
@[simp] theorem State.putRec_host (s : State) (i : Nat) (v : Word) : (s.putRec i v).host = s.host := by unfold State.putRec; split <;> rfl
@[simp] theorem State.putRec_resets (s : State) (i : Nat) (v : Word) : (s.putRec i v).resets = s.resets := by unfold State.putRec; split <;> rfl
@[simp] theorem State.putRec_draws (s : State) (i : Nat) (v : Word) : (s.putRec i v).draws = s.draws := by unfold State.putRec; split <;> rfl

/-! ### clearRec -/

@[simp] theorem State.clearRec_cfg (s : State) : (s.clearRec).cfg = s.cfg := rfl
@[simp] theorem State.clearRec_c0 (s : State) : (s.clearRec).c0 = s.c0 := rfl
@[simp] theorem State.clearRec_c1 (s : State) : (s.clearRec).c1 = s.c1 := rfl
@[simp] theorem State.clearRec_rs (s : State) : (s.clearRec).rs = s.rs := rfl
@[simp] theorem State.clearRec_tag (s : State) : (s.clearRec).tag = s.tag := rfl
@[simp] theorem State.clearRec_argA (s : State) : (s.clearRec).argA = s.argA := rfl
@[simp] theorem State.clearRec_argB (s : State) : (s.clearRec).argB = s.argB := rfl
@[simp] theorem State.clearRec_lineLen (s : State) : (s.clearRec).lineLen = s.lineLen := rfl
@[simp] theorem State.clearRec_y0 (s : State) : (s.clearRec).y0 = s.y0 := rfl
@[simp] theorem State.clearRec_y1 (s : State) : (s.clearRec).y1 = s.y1 := rfl
@[simp] theorem State.clearRec_lineMem (s : State) : (s.clearRec).lineMem = s.lineMem := rfl
@[simp] theorem State.clearRec_recMem (s : State) : (s.clearRec).recMem = Memory.fill s.cfg.recWords 0#32 := rfl
@[simp] theorem State.clearRec_status (s : State) : (s.clearRec).status = s.status := rfl
@[simp] theorem State.clearRec_host (s : State) : (s.clearRec).host = s.host := rfl
@[simp] theorem State.clearRec_resets (s : State) : (s.clearRec).resets = s.resets := rfl
@[simp] theorem State.clearRec_draws (s : State) : (s.clearRec).draws = s.draws := rfl

/-! ### setCursor -/

@[simp] theorem State.setCursor_cfg (s : State) (c : CursorSel) (x : Cursor) : (s.setCursor c x).cfg = s.cfg := by cases c <;> rfl
@[simp] theorem State.setCursor_rs (s : State) (c : CursorSel) (x : Cursor) : (s.setCursor c x).rs = s.rs := by cases c <;> rfl
@[simp] theorem State.setCursor_tag (s : State) (c : CursorSel) (x : Cursor) : (s.setCursor c x).tag = s.tag := by cases c <;> rfl
@[simp] theorem State.setCursor_argA (s : State) (c : CursorSel) (x : Cursor) : (s.setCursor c x).argA = s.argA := by cases c <;> rfl
@[simp] theorem State.setCursor_argB (s : State) (c : CursorSel) (x : Cursor) : (s.setCursor c x).argB = s.argB := by cases c <;> rfl
@[simp] theorem State.setCursor_lineLen (s : State) (c : CursorSel) (x : Cursor) : (s.setCursor c x).lineLen = s.lineLen := by cases c <;> rfl
@[simp] theorem State.setCursor_y0 (s : State) (c : CursorSel) (x : Cursor) : (s.setCursor c x).y0 = s.y0 := by cases c <;> rfl
@[simp] theorem State.setCursor_y1 (s : State) (c : CursorSel) (x : Cursor) : (s.setCursor c x).y1 = s.y1 := by cases c <;> rfl
@[simp] theorem State.setCursor_lineMem (s : State) (c : CursorSel) (x : Cursor) : (s.setCursor c x).lineMem = s.lineMem := by cases c <;> rfl
@[simp] theorem State.setCursor_recMem (s : State) (c : CursorSel) (x : Cursor) : (s.setCursor c x).recMem = s.recMem := by cases c <;> rfl
@[simp] theorem State.setCursor_status (s : State) (c : CursorSel) (x : Cursor) : (s.setCursor c x).status = s.status := by cases c <;> rfl
@[simp] theorem State.setCursor_host (s : State) (c : CursorSel) (x : Cursor) : (s.setCursor c x).host = s.host := by cases c <;> rfl
@[simp] theorem State.setCursor_resets (s : State) (c : CursorSel) (x : Cursor) : (s.setCursor c x).resets = s.resets := by cases c <;> rfl
@[simp] theorem State.setCursor_draws (s : State) (c : CursorSel) (x : Cursor) : (s.setCursor c x).draws = s.draws := by cases c <;> rfl
@[simp] theorem State.setCursor_c0_c0 (s : State) (x : Cursor) : (s.setCursor .c0 x).c0 = x := rfl
@[simp] theorem State.setCursor_c0_c1 (s : State) (x : Cursor) : (s.setCursor .c0 x).c1 = s.c1 := rfl
@[simp] theorem State.setCursor_c1_c0 (s : State) (x : Cursor) : (s.setCursor .c1 x).c0 = s.c0 := rfl
@[simp] theorem State.setCursor_c1_c1 (s : State) (x : Cursor) : (s.setCursor .c1 x).c1 = x := rfl
@[simp] theorem State.cursor_setCursor (s : State) (c : CursorSel) (x : Cursor) : (s.setCursor c x).cursor c = x := by
  cases c <;> rfl
@[simp] theorem State.setCursor_cursor (s : State) (c : CursorSel) : s.setCursor c (s.cursor c) = s := by
  cases c <;> rfl
@[simp] theorem State.setCursor_setCursor (s : State) (c : CursorSel) (x y : Cursor) :
    (s.setCursor c x).setCursor c y = s.setCursor c y := by
  cases c <;> rfl

/-! ### resetBlock -/

@[simp] theorem State.resetBlock_cfg (s : State) : (s.resetBlock).cfg = s.cfg := rfl
@[simp] theorem State.resetBlock_c0 (s : State) : (s.resetBlock).c0 = Cursor.empty := rfl
@[simp] theorem State.resetBlock_c1 (s : State) : (s.resetBlock).c1 = Cursor.empty := rfl
@[simp] theorem State.resetBlock_rs (s : State) : (s.resetBlock).rs = Rs.idle := rfl
@[simp] theorem State.resetBlock_tag (s : State) : (s.resetBlock).tag = 0#6 := rfl
@[simp] theorem State.resetBlock_argA (s : State) : (s.resetBlock).argA = 0#32 := rfl
@[simp] theorem State.resetBlock_argB (s : State) : (s.resetBlock).argB = 0#32 := rfl
@[simp] theorem State.resetBlock_lineLen (s : State) : (s.resetBlock).lineLen = 0#32 := rfl
@[simp] theorem State.resetBlock_y0 (s : State) : (s.resetBlock).y0 = 0#64 := rfl
@[simp] theorem State.resetBlock_y1 (s : State) : (s.resetBlock).y1 = 0#64 := rfl
@[simp] theorem State.resetBlock_lineMem (s : State) : (s.resetBlock).lineMem = [] := rfl
@[simp] theorem State.resetBlock_recMem (s : State) : (s.resetBlock).recMem = [] := rfl
@[simp] theorem State.resetBlock_status (s : State) : (s.resetBlock).status = Status.clear := rfl
@[simp] theorem State.resetBlock_host (s : State) : (s.resetBlock).host = s.host := rfl
@[simp] theorem State.resetBlock_resets (s : State) : (s.resetBlock).resets = s.resets + 1 := rfl
@[simp] theorem State.resetBlock_draws (s : State) : (s.resetBlock).draws = s.draws := rfl

/-! ### discard -/

@[simp] theorem State.discard_cfg (s : State) : (s.discard).cfg = s.cfg := rfl
@[simp] theorem State.discard_c0 (s : State) : (s.discard).c0 = Cursor.empty := rfl
@[simp] theorem State.discard_c1 (s : State) : (s.discard).c1 = s.c1 := rfl
@[simp] theorem State.discard_rs (s : State) : (s.discard).rs = Rs.idle := rfl
@[simp] theorem State.discard_tag (s : State) : (s.discard).tag = s.tag := rfl
@[simp] theorem State.discard_argA (s : State) : (s.discard).argA = s.argA := rfl
@[simp] theorem State.discard_argB (s : State) : (s.discard).argB = s.argB := rfl
@[simp] theorem State.discard_lineLen (s : State) : (s.discard).lineLen = s.lineLen := rfl
@[simp] theorem State.discard_y0 (s : State) : (s.discard).y0 = s.y0 := rfl
@[simp] theorem State.discard_y1 (s : State) : (s.discard).y1 = s.y1 := rfl
@[simp] theorem State.discard_lineMem (s : State) : (s.discard).lineMem = s.lineMem := rfl
@[simp] theorem State.discard_recMem (s : State) : (s.discard).recMem = s.recMem := rfl
@[simp] theorem State.discard_status (s : State) : (s.discard).status = s.status := rfl
@[simp] theorem State.discard_host (s : State) : (s.discard).host = s.host := rfl
@[simp] theorem State.discard_resets (s : State) : (s.discard).resets = s.resets := rfl
@[simp] theorem State.discard_draws (s : State) : (s.discard).draws = s.draws := rfl

/-! ### snapshot -/

@[simp] theorem State.snapshot_cfg (s : State) : (s.snapshot).cfg = s.cfg := rfl
@[simp] theorem State.snapshot_c0 (s : State) : (s.snapshot).c0 = s.c0 := rfl
@[simp] theorem State.snapshot_c1 (s : State) : (s.snapshot).c1 = s.c0 := rfl
@[simp] theorem State.snapshot_rs (s : State) : (s.snapshot).rs = s.rs := rfl
@[simp] theorem State.snapshot_tag (s : State) : (s.snapshot).tag = s.tag := rfl
@[simp] theorem State.snapshot_argA (s : State) : (s.snapshot).argA = s.argA := rfl
@[simp] theorem State.snapshot_argB (s : State) : (s.snapshot).argB = s.argB := rfl
@[simp] theorem State.snapshot_lineLen (s : State) : (s.snapshot).lineLen = s.lineLen := rfl
@[simp] theorem State.snapshot_y0 (s : State) : (s.snapshot).y0 = s.y0 := rfl
@[simp] theorem State.snapshot_y1 (s : State) : (s.snapshot).y1 = s.y1 := rfl
@[simp] theorem State.snapshot_lineMem (s : State) : (s.snapshot).lineMem = s.lineMem := rfl
@[simp] theorem State.snapshot_recMem (s : State) : (s.snapshot).recMem = s.recMem := rfl
@[simp] theorem State.snapshot_status (s : State) : (s.snapshot).status = s.status := rfl
@[simp] theorem State.snapshot_host (s : State) : (s.snapshot).host = s.host := rfl
@[simp] theorem State.snapshot_resets (s : State) : (s.snapshot).resets = s.resets := rfl
@[simp] theorem State.snapshot_draws (s : State) : (s.snapshot).draws = s.draws := rfl

/-! ### advance -/

@[simp] theorem State.advance_cfg (s : State) : (s.advance).cfg = s.cfg := rfl
@[simp] theorem State.advance_c0 (s : State) : (s.advance).c0 = s.c0 := rfl
@[simp] theorem State.advance_c1 (s : State) : (s.advance).c1 = s.c1 := rfl
@[simp] theorem State.advance_rs (s : State) : (s.advance).rs = s.rs := rfl
@[simp] theorem State.advance_tag (s : State) : (s.advance).tag = s.tag := rfl
@[simp] theorem State.advance_argA (s : State) : (s.advance).argA = s.argA := rfl
@[simp] theorem State.advance_argB (s : State) : (s.advance).argB = s.argB := rfl
@[simp] theorem State.advance_lineLen (s : State) : (s.advance).lineLen = s.lineLen := rfl
@[simp] theorem State.advance_y0 (s : State) : (s.advance).y0 = s.y0 := rfl
@[simp] theorem State.advance_y1 (s : State) : (s.advance).y1 = s.y1 := rfl
@[simp] theorem State.advance_lineMem (s : State) : (s.advance).lineMem = s.lineMem := rfl
@[simp] theorem State.advance_recMem (s : State) : (s.advance).recMem = s.recMem := rfl
@[simp] theorem State.advance_status (s : State) : (s.advance).status = s.status := rfl
@[simp] theorem State.advance_host (s : State) : (s.advance).host = { s.host with position := s.host.position + 1 } := rfl
@[simp] theorem State.advance_resets (s : State) : (s.advance).resets = s.resets := rfl
@[simp] theorem State.advance_draws (s : State) : (s.advance).draws = s.draws := rfl

/-! ### popped -/

@[simp] theorem State.popped_cfg (s : State) (rest : List Event) : (s.popped rest).cfg = s.cfg := rfl
@[simp] theorem State.popped_c0 (s : State) (rest : List Event) : (s.popped rest).c0 = s.c0 := rfl
@[simp] theorem State.popped_c1 (s : State) (rest : List Event) : (s.popped rest).c1 = s.c1 := rfl
@[simp] theorem State.popped_rs (s : State) (rest : List Event) : (s.popped rest).rs = s.rs := rfl
@[simp] theorem State.popped_tag (s : State) (rest : List Event) : (s.popped rest).tag = s.tag := rfl
@[simp] theorem State.popped_argA (s : State) (rest : List Event) : (s.popped rest).argA = s.argA := rfl
@[simp] theorem State.popped_argB (s : State) (rest : List Event) : (s.popped rest).argB = s.argB := rfl
@[simp] theorem State.popped_lineLen (s : State) (rest : List Event) : (s.popped rest).lineLen = s.lineLen := rfl
@[simp] theorem State.popped_y0 (s : State) (rest : List Event) : (s.popped rest).y0 = s.y0 := rfl
@[simp] theorem State.popped_y1 (s : State) (rest : List Event) : (s.popped rest).y1 = s.y1 := rfl
@[simp] theorem State.popped_lineMem (s : State) (rest : List Event) : (s.popped rest).lineMem = s.lineMem := rfl
@[simp] theorem State.popped_recMem (s : State) (rest : List Event) : (s.popped rest).recMem = s.recMem := rfl
@[simp] theorem State.popped_status (s : State) (rest : List Event) : (s.popped rest).status = s.status := rfl
@[simp] theorem State.popped_host (s : State) (rest : List Event) : (s.popped rest).host = { s.host with pending := rest } := rfl
@[simp] theorem State.popped_resets (s : State) (rest : List Event) : (s.popped rest).resets = s.resets := rfl
@[simp] theorem State.popped_draws (s : State) (rest : List Event) : (s.popped rest).draws = s.draws := rfl

/-! ### push -/

@[simp] theorem State.push_cfg (s : State) (e : Event) : (s.push e).cfg = s.cfg := rfl
@[simp] theorem State.push_c0 (s : State) (e : Event) : (s.push e).c0 = s.c0 := rfl
@[simp] theorem State.push_c1 (s : State) (e : Event) : (s.push e).c1 = s.c1 := rfl
@[simp] theorem State.push_rs (s : State) (e : Event) : (s.push e).rs = s.rs := rfl
@[simp] theorem State.push_tag (s : State) (e : Event) : (s.push e).tag = s.tag := rfl
@[simp] theorem State.push_argA (s : State) (e : Event) : (s.push e).argA = s.argA := rfl
@[simp] theorem State.push_argB (s : State) (e : Event) : (s.push e).argB = s.argB := rfl
@[simp] theorem State.push_lineLen (s : State) (e : Event) : (s.push e).lineLen = s.lineLen := rfl
@[simp] theorem State.push_y0 (s : State) (e : Event) : (s.push e).y0 = s.y0 := rfl
@[simp] theorem State.push_y1 (s : State) (e : Event) : (s.push e).y1 = s.y1 := rfl
@[simp] theorem State.push_lineMem (s : State) (e : Event) : (s.push e).lineMem = s.lineMem := rfl
@[simp] theorem State.push_recMem (s : State) (e : Event) : (s.push e).recMem = s.recMem := rfl
@[simp] theorem State.push_status (s : State) (e : Event) : (s.push e).status = s.status := rfl
@[simp] theorem State.push_host (s : State) (e : Event) : (s.push e).host = { s.host with pending := e :: s.host.pending } := rfl
@[simp] theorem State.push_resets (s : State) (e : Event) : (s.push e).resets = s.resets := rfl
@[simp] theorem State.push_draws (s : State) (e : Event) : (s.push e).draws = s.draws := rfl

/-! ### hostRead -/

@[simp] theorem State.hostRead_cfg (s : State) (p : Port) : (s.hostRead p).cfg = s.cfg := rfl
@[simp] theorem State.hostRead_c0 (s : State) (p : Port) : (s.hostRead p).c0 = s.c0 := rfl
@[simp] theorem State.hostRead_c1 (s : State) (p : Port) : (s.hostRead p).c1 = s.c1 := rfl
@[simp] theorem State.hostRead_rs (s : State) (p : Port) : (s.hostRead p).rs = s.rs := rfl
@[simp] theorem State.hostRead_tag (s : State) (p : Port) : (s.hostRead p).tag = s.tag := rfl
@[simp] theorem State.hostRead_argA (s : State) (p : Port) : (s.hostRead p).argA = s.argA := rfl
@[simp] theorem State.hostRead_argB (s : State) (p : Port) : (s.hostRead p).argB = s.argB := rfl
@[simp] theorem State.hostRead_lineLen (s : State) (p : Port) : (s.hostRead p).lineLen = s.lineLen := rfl
@[simp] theorem State.hostRead_y0 (s : State) (p : Port) : (s.hostRead p).y0 = s.y0 := rfl
@[simp] theorem State.hostRead_y1 (s : State) (p : Port) : (s.hostRead p).y1 = s.y1 := rfl
@[simp] theorem State.hostRead_lineMem (s : State) (p : Port) : (s.hostRead p).lineMem = s.lineMem := rfl
@[simp] theorem State.hostRead_recMem (s : State) (p : Port) : (s.hostRead p).recMem = s.recMem := rfl
@[simp] theorem State.hostRead_status (s : State) (p : Port) : (s.hostRead p).status = s.status := rfl
@[simp] theorem State.hostRead_host (s : State) (p : Port) : (s.hostRead p).host = { s.host with reads := s.portWord p :: s.host.reads } := rfl
@[simp] theorem State.hostRead_resets (s : State) (p : Port) : (s.hostRead p).resets = s.resets := rfl
@[simp] theorem State.hostRead_draws (s : State) (p : Port) : (s.hostRead p).draws = if s.drawsAt p then s.draws + 1 else s.draws := rfl

/-! ### The cursor and the elements through an update -/

@[simp] theorem State.cursor_setLast (s : State) (r : ResultCode) (c : CursorSel) : (s.setLast r).cursor c = s.cursor c := by cases c <;> rfl
@[simp] theorem State.cursor_setBadchar (s : State) (b : Bool) (c : CursorSel) : (s.setBadchar b).cursor c = s.cursor c := by cases c <;> rfl
@[simp] theorem State.cursor_setOverflow (s : State) (b : Bool) (c : CursorSel) : (s.setOverflow b).cursor c = s.cursor c := by cases c <;> rfl
@[simp] theorem State.cursor_setTag (s : State) (t : Sextet) (c : CursorSel) : (s.setTag t).cursor c = s.cursor c := by cases c <;> rfl
@[simp] theorem State.cursor_setY0 (s : State) (v : DWord) (c : CursorSel) : (s.setY0 v).cursor c = s.cursor c := by cases c <;> rfl
@[simp] theorem State.cursor_setY1 (s : State) (v : DWord) (c : CursorSel) : (s.setY1 v).cursor c = s.cursor c := by cases c <;> rfl
@[simp] theorem State.cursor_setRs (s : State) (r : Rs) (c : CursorSel) : (s.setRs r).cursor c = s.cursor c := by cases c <;> rfl
@[simp] theorem State.cursor_clearRec (s : State) (c : CursorSel) : (s.clearRec).cursor c = s.cursor c := by cases c <;> rfl
@[simp] theorem State.cursor_advance (s : State) (c : CursorSel) : (s.advance).cursor c = s.cursor c := by cases c <;> rfl
@[simp] theorem State.cursor_putRec (s : State) (i : Nat) (v : Word) (c : CursorSel) : (s.putRec i v).cursor c = s.cursor c := by
  cases c <;> simp [State.cursor]

end Sys2Proof.Machine
end

