-- ==== Sys2Proof/Laws/Memory.lean ====
section
/-! SUPPORT. The arrays: reading after a write, and every operation keeps the canonical form. -/

namespace Sys2Proof.Machine

variable {w : Nat}

@[simp] theorem Memory.get?_nil (a : Nat) : Memory.get? ([] : Memory w) a = none := rfl

/-- A read after a write to the same element gives the value written. -/
@[simp] theorem Memory.get?_put_same (m : Memory w) (a : Nat) (v : BitVec w) : (m.put a v).get? a = some v := by
  induction m with
  | nil => simp [Memory.put, Memory.get?]
  | cons p m ih =>
    obtain ⟨b, u⟩ := p
    unfold Memory.put
    split
    · simp [Memory.get?]
    · split
      · simp [Memory.get?]
      · simp [Memory.get?, *]

/-- Nothing is listed at or below a bound the listed indexes rise from. -/
theorem Memory.get?_of_risingFrom (m : Memory w) (b a : Nat) (h : m.risingFrom b = true) (hab : a ≤ b) :
    m.get? a = none := by
  cases m with
  | nil => rfl
  | cons p m =>
    obtain ⟨c, u⟩ := p
    simp only [Memory.risingFrom, Bool.and_eq_true, decide_eq_true_eq] at h
    simp [Memory.get?, show a ≠ c by omega, show a < c by omega]

/-- A write leaves every other element alone. -/
theorem Memory.get?_put_other (m : Memory w) (a b : Nat) (v : BitVec w) (h : b ≠ a) :
    (m.put a v).get? b = m.get? b := by
  induction m with
  | nil => simp [Memory.put, Memory.get?, h]
  | cons p m ih =>
    obtain ⟨c, u⟩ := p
    unfold Memory.put
    split
    · subst_vars; simp [Memory.get?, h]
    · split
      · by_cases h1 : b < a
        · simp [Memory.get?, h, h1, show b ≠ c by omega, show b < c by omega]
        · simp [Memory.get?, h, h1]
      · simp only [Memory.get?, ih]

theorem Memory.get?_put (m : Memory w) (a b : Nat) (v : BitVec w) :
    (m.put a v).get? b = if b = a then some v else m.get? b := by
  split
  · subst_vars; simp
  · exact Memory.get?_put_other m a b v ‹_›

theorem Memory.put_risingFrom (m : Memory w) (b a : Nat) (v : BitVec w) (h : m.risingFrom b = true) (hab : b < a) :
    (m.put a v).risingFrom b = true := by
  induction m generalizing b with
  | nil => simp [Memory.put, Memory.risingFrom, hab]
  | cons p m ih =>
    obtain ⟨c, u⟩ := p
    simp only [Memory.risingFrom, Bool.and_eq_true, decide_eq_true_eq] at h
    unfold Memory.put
    split
    · subst_vars; simp [Memory.risingFrom, h]
    · split
      · simp [Memory.risingFrom, *]
      · simp [Memory.risingFrom, h.1, ih c h.2 (by omega)]

/-- A write keeps the canonical form. -/
theorem Memory.put_wf (m : Memory w) (a : Nat) (v : BitVec w) (h : m.wf = true) : (m.put a v).wf = true := by
  cases m with
  | nil => rfl
  | cons p m =>
    obtain ⟨c, u⟩ := p
    simp only [Memory.wf] at h
    unfold Memory.put
    split
    · subst_vars; simpa [Memory.wf] using h
    · split
      · simp [Memory.wf, Memory.risingFrom, *]
      · exact Memory.put_risingFrom m c a v h (by omega)

/-- A write inside the array lists nothing outside it. -/
theorem Memory.put_below (m : Memory w) (n a : Nat) (v : BitVec w) (h : m.below n = true) (ha : a < n) :
    (m.put a v).below n = true := by
  induction m with
  | nil => simp [Memory.put, Memory.below, ha]
  | cons p m ih =>
    obtain ⟨c, u⟩ := p
    simp only [Memory.below, List.all_cons, Bool.and_eq_true, decide_eq_true_eq] at h ih
    unfold Memory.put
    split
    · simp only [Memory.below, List.all_cons, Bool.and_eq_true, decide_eq_true_eq]; exact ⟨ha, h.2⟩
    · split
      · simp only [Memory.below, List.all_cons, Bool.and_eq_true, decide_eq_true_eq]; exact ⟨ha, h⟩
      · simp only [Memory.below, List.all_cons, Bool.and_eq_true, decide_eq_true_eq]; exact ⟨h.1, ih h.2⟩

theorem Memory.risingFrom_range' (v : BitVec w) (k b a : Nat) (h : a < b) :
    Memory.risingFrom ((List.range' b k).map (fun i => (i, v))) a = true := by
  induction k generalizing b a with
  | zero => rfl
  | succ k ih => simp [List.range', Memory.risingFrom, h, ih (b + 1) b (by omega)]

/-- A fill has the canonical form. -/
theorem Memory.fill_wf (n : Nat) (v : BitVec w) : (Memory.fill n v).wf = true := by
  unfold Memory.fill
  rw [List.range_eq_range']
  cases n with
  | zero => rfl
  | succ n => simpa [List.range', Memory.wf] using Memory.risingFrom_range' v n 1 0 (by omega)

/-- A fill of n elements lists nothing at or above n. -/
theorem Memory.fill_below (n : Nat) (v : BitVec w) : (Memory.fill n v).below n = true := by
  simp [Memory.fill, Memory.below]

theorem Memory.get?_range' (v : BitVec w) (k b a : Nat) :
    Memory.get? ((List.range' b k).map (fun i => (i, v))) a = if b ≤ a ∧ a < b + k then some v else none := by
  induction k generalizing b with
  | zero => simp
  | succ k ih =>
    simp only [List.range', List.map_cons, Memory.get?, ih]
    repeat' split
    all_goals first | rfl | omega

/-- What a fill lists. -/
theorem Memory.get?_fill (n a : Nat) (v : BitVec w) : (Memory.fill n v).get? a = if a < n then some v else none := by
  simp [Memory.fill, List.range_eq_range', Memory.get?_range']

/-! ### Memory operations keep the arrays sound -/

theorem MemorySound.put {cap : Nat} {m : Memory w} (h : MemorySound cap m) {a : Nat} (v : BitVec w) (ha : a < cap) :
    MemorySound cap (m.put a v) :=
  ⟨Memory.put_wf m a v h.rising, Memory.put_below m cap a v h.inside ha⟩

theorem MemorySound.fill (cap : Nat) (v : BitVec w) : MemorySound cap (Memory.fill cap v) :=
  ⟨Memory.fill_wf cap v, Memory.fill_below cap v⟩

theorem MemorySound.nil (cap : Nat) : MemorySound cap ([] : Memory w) := ⟨rfl, rfl⟩

/-- Every REC update keeps REC sound (spec/44_decoders.md R178, R195). -/
theorem State.putRec_recSound {s : State} (h : MemorySound s.cfg.recWords s.recMem) (i : Nat) (v : Word) :
    MemorySound (s.putRec i v).cfg.recWords (s.putRec i v).recMem := by
  unfold State.putRec
  split
  · exact h.put v ‹_›
  · exact h

/-! ### Elements through an update -/

theorem State.recWord_putRec (s : State) (i j : Nat) (v : Word) :
    (s.putRec i v).recWord j = if j = i ∧ i < s.cfg.recWords then v else s.recWord j := by
  unfold State.putRec State.recWord
  by_cases h : i < s.cfg.recWords
  · by_cases hj : j = i
    · simp [h, hj]
    · simp [h, hj, Memory.get?_put_other _ _ _ _ hj]
  · simp [h]

theorem State.recWord_clearRec (s : State) (j : Nat) (h : j < s.cfg.recWords) : s.clearRec.recWord j = 0#32 := by
  simp [State.clearRec, State.recWord, Memory.get?_fill, h]

theorem State.lineByte_putLine (s : State) (i j : Nat) (v : Byte) :
    (s.putLine i v).lineByte j = if j = i then v else s.lineByte j := by
  by_cases hj : j = i
  · simp [State.putLine, State.lineByte, hj]
  · simp [State.putLine, State.lineByte, hj, Memory.get?_put_other _ _ _ _ hj]

end Sys2Proof.Machine
end

