-- ==== Sys2Proof/Laws/Ops.lean ====
section
/-! SUPPORT. The shared operations: the gate of a faulted block, the fetch, the append, the framer's results and the
reassembler, one lemma each for everything the operation can do. -/

namespace Sys2Proof.Machine

/-! ### The gate (spec/60_exceptions.md R209) -/

@[simp] theorem whenLive_live {s : State} (h : s.status.fault = false) (r : Result) : whenLive s r = r := by
  simp [whenLive, h]

@[simp] theorem whenLive_faulted {s : State} (h : s.status.fault = true) (r : Result) : whenLive s r = .next s := by
  simp [whenLive, h]

/-- A gated rule answers next only in one of two ways. -/
theorem whenLive_next {s t : State} {r : Result} (h : whenLive s r = .next t) :
    (s.status.fault = true ∧ t = s) ∨ (s.status.fault = false ∧ r = .next t) := by
  cases hf : s.status.fault
  · exact .inr ⟨rfl, by simpa [hf] using h⟩
  · rw [whenLive_faulted hf] at h
    injection h with h
    exact .inl ⟨rfl, h.symm⟩

/-! ### The armor table (spec/40_bitcursor.md R102) -/

theorem group_draws_le (c : Byte) (f : FetchSt) : f.draws ≤ (group c f).2.draws := by
  unfold group; split <;> simp

@[simp] theorem group_cur (c : Byte) (f : FetchSt) : (group c f).2.cur = f.cur := by
  unfold group; split <;> rfl

/-- BADCHAR is set exactly where the character is invalid (R110). -/
theorem group_badchar (c : Byte) (f : FetchSt) : (group c f).2.badchar = (f.badchar || (armor6 c).isNone) := by
  unfold group; split <;> simp [*]

theorem group_valid {c : Byte} {g : Sextet} (h : armor6 c = some g) (f : FetchSt) : group c f = (g, f) := by
  simp [group, h]

/-! ### The fetch (R109) -/

/-- Holding the low k bits of a group, for k at most 5, leaves a sound cursor (spec/10_state.md R21). -/
theorem Cursor.hold_sound {cap : Nat} {c : Cursor} (h : c.Sound cap) (g k : Nat) (hk : k ≤ 5) :
    (c.hold g k).Sound cap := by
  have h2 : 2 ^ k ≤ 2 ^ 5 := Nat.pow_le_pow_right (by omega) hk
  have h3 : g % 2 ^ k < 2 ^ k := Nat.mod_lt _ (Nat.two_pow_pos k)
  refine ⟨h.posLe, h.lenLe, ?_, ?_⟩
  · simp only [Cursor.hold, BitVec.toNat_ofNat]; omega
  · simp only [Cursor.hold, BitVec.toNat_ofNat]
    rw [Nat.mod_eq_of_lt (show k < 2 ^ 3 by omega), Nat.mod_eq_of_lt (show g % 2 ^ k < 2 ^ 6 by omega)]
    exact h3

/-- The loop changes no stored character, keeps a sound cursor sound, and only raises BADCHAR and the draw number. -/
theorem fetchLoop_spec (fuel need r : Nat) (f : FetchSt) :
    (fetchLoop fuel need r f).2.cur.buf = f.cur.buf ∧
    (∀ cap, f.cur.Sound cap → f.cur.remBits = 0#3 → (fetchLoop fuel need r f).2.cur.Sound cap) ∧
    (f.badchar = true → (fetchLoop fuel need r f).2.badchar = true) ∧
    f.cur.pos ≤ (fetchLoop fuel need r f).2.cur.pos := by
  induction fuel generalizing need r f with
  | zero => exact ⟨rfl, fun _ h _ => h, id, Nat.le_refl _⟩
  | succ fuel ih =>
    unfold fetchLoop
    split
    · exact ⟨rfl, fun _ h _ => h, id, Nat.le_refl _⟩
    · cases hb : f.cur.buf[f.cur.pos]? with
      | none => exact ⟨rfl, fun _ h _ => h, id, Nat.le_refl _⟩
      | some ch =>
        obtain ⟨hlt, -⟩ := List.getElem?_eq_some_iff.mp hb
        have hs : ∀ cap, f.cur.Sound cap → ({ f.cur with pos := f.cur.pos + 1 } : Cursor).Sound cap :=
          fun cap h => ⟨by simp only [Cursor.bufLen]; omega, h.lenLe, h.bitsLe, h.remLt⟩
        dsimp only
        split
        · obtain ⟨h1, h2, h3, h4⟩ := ih (need - 6)
            (r * 64 + (group ch { f with cur := { f.cur with pos := f.cur.pos + 1 } }).1.toNat)
            (group ch { f with cur := { f.cur with pos := f.cur.pos + 1 } }).2
          simp only [group_cur, group_badchar] at h1 h2 h3 h4
          exact ⟨h1, fun cap h hr => h2 cap (hs cap h) hr, fun hb => h3 (by simp [hb]), by omega⟩
        · refine ⟨by simp [Cursor.hold], fun cap h _ => ?_, fun hb => by simp [group_badchar, hb], by simp [Cursor.hold]⟩
          simp only [group_cur]
          exact Cursor.hold_sound (hs cap h) _ _ (by omega)

/-- `fetch(C, n)`: no stored character changes, a sound cursor stays sound, POS only grows, BADCHAR is only raised. -/
theorem fetchBits_spec (n : Nat) (f : FetchSt) :
    (fetchBits n f).2.cur.buf = f.cur.buf ∧
    (∀ cap, f.cur.Sound cap → (fetchBits n f).2.cur.Sound cap) ∧
    (f.badchar = true → (fetchBits n f).2.badchar = true) ∧
    f.cur.pos ≤ (fetchBits n f).2.cur.pos := by
  unfold fetchBits
  dsimp only
  split
  · obtain ⟨h1, h2, h3, h4⟩ := fetchLoop_spec n n 0 f
    exact ⟨h1, fun cap h => h2 cap h (BitVec.eq_of_toNat_eq (by simpa using ‹_›)), h3, h4⟩
  · split
    · obtain ⟨h1, h2, h3, h4⟩ := fetchLoop_spec n (n - f.cur.remBits.toNat) f.cur.rem.toNat
        { f with cur := { f.cur with rem := 0#6, remBits := 0#3 } }
      exact ⟨h1, fun cap h => h2 cap ⟨h.posLe, h.lenLe, by simp, by simp⟩ rfl, h3, h4⟩
    · exact ⟨rfl, fun cap h => Cursor.hold_sound h _ _ (by have := h.bitsLe; omega), id, Nat.le_refl _⟩

/-- What `fetch` leaves unchanged, and the cursor it leaves. -/
structure FetchFrame (s : State) (c : CursorSel) (t : State) : Prop where
  rest : t = { (s.setCursor c (t.cursor c)).setBadchar t.status.badchar with draws := t.draws }
  buf : (t.cursor c).buf = (s.cursor c).buf
  sound : ∀ cap, (s.cursor c).Sound cap → (t.cursor c).Sound cap
  badchar : s.status.badchar = true → t.status.badchar = true
  pos : (s.cursor c).pos ≤ (t.cursor c).pos

theorem State.fetch_frame (s : State) (c : CursorSel) (n : Nat) : FetchFrame s c (s.fetch c n).2 := by
  obtain ⟨h1, h2, h3, h4⟩ := fetchBits_spec n { cur := s.cursor c, draws := s.draws, badchar := s.status.badchar }
  cases c <;> exact ⟨rfl, h1, h2, h3, h4⟩

/-- The other cursor and every register a fetch does not name. -/
theorem FetchFrame.fields {s t : State} {c : CursorSel} (h : FetchFrame s c t) :
    t.cfg = s.cfg ∧ t.rs = s.rs ∧ t.tag = s.tag ∧ t.argA = s.argA ∧ t.argB = s.argB ∧ t.lineLen = s.lineLen ∧
    t.y0 = s.y0 ∧ t.y1 = s.y1 ∧ t.lineMem = s.lineMem ∧ t.recMem = s.recMem ∧ t.host = s.host ∧
    t.resets = s.resets ∧ t.status = { s.status with badchar := t.status.badchar } := by
  have := h.rest
  refine ⟨?_, ?_, ?_, ?_, ?_, ?_, ?_, ?_, ?_, ?_, ?_, ?_, ?_⟩ <;> (rw [this]; simp)

theorem FetchFrame.other {s t : State} (h : FetchFrame s .c0 t) : t.c1 = s.c1 := by rw [h.rest]; rfl

/-! ### The append (R106) -/

theorem State.appendChar_spec (s : State) (c : CursorSel) (b : Byte) :
    s.appendChar c b =
      (if (s.cursor c).bufLen < s.cfg.capChars then
        s.setCursor c { s.cursor c with buf := (s.cursor c).buf ++ [b] } else s.setOverflow true) := rfl

@[simp] theorem State.appendAll_nil (s : State) (c : CursorSel) : s.appendAll c [] = s := rfl

@[simp] theorem State.appendAll_cons (s : State) (c : CursorSel) (b : Byte) (bs : List Byte) :
    s.appendAll c (b :: bs) = (s.appendChar c b).appendAll c bs := rfl

/-- Everything an append does: characters kept up to CAP_CHARS, OVERFLOW raised where one is dropped, nothing else
changed (R105, R106). -/
theorem State.appendAll_spec (s : State) (c : CursorSel) (bs : List Byte) (h : (s.cursor c).bufLen ≤ s.cfg.capChars) :
    s.appendAll c bs =
      (s.setCursor c { s.cursor c with buf := ((s.cursor c).buf ++ bs).take s.cfg.capChars }).setOverflow
        (s.status.overflow || decide (s.cfg.capChars < (s.cursor c).bufLen + bs.length)) := by
  induction bs generalizing s with
  | nil =>
    have : decide (s.cfg.capChars < (s.cursor c).bufLen) = false := by simpa using h
    simp only [State.appendAll_nil, List.append_nil, List.length_nil, Nat.add_zero, this, Bool.or_false]
    rw [List.take_of_length_le h]
    cases c <;> rfl
  | cons b bs ih =>
    rw [State.appendAll_cons, State.appendChar_spec]
    split
    · next hlt =>
      rw [ih _ (by simp only [State.cursor_setCursor, State.setCursor_cfg, Cursor.bufLen, List.length_append,
        List.length_singleton] at *; omega)]
      refine congrArg₂ State.setOverflow ?_ ?_
      · simp [List.append_assoc]
      · simp only [State.cursor_setCursor, State.setCursor_cfg, State.setCursor_status, Cursor.bufLen,
          List.length_append, List.length_cons, List.length_nil]
        rw [Bool.eq_iff_iff]
        simp only [Bool.or_eq_true, decide_eq_true_eq]
        exact or_congr Iff.rfl ((by omega : _ ↔ _).trans decide_eq_true_iff.symm)
    · next hge =>
      have heq : (s.cursor c).buf.length = s.cfg.capChars := by unfold Cursor.bufLen at *; omega
      rw [ih _ (by simpa using h)]
      have hov : (s.status.overflow || decide (s.cfg.capChars < (s.cursor c).bufLen + (b :: bs).length)) = true := by
        rw [Bool.or_eq_true, decide_eq_true_eq]
        right
        simp only [Cursor.bufLen, List.length_cons]
        omega
      rw [hov]
      simp only [State.cursor_setOverflow, State.setOverflow_cfg, State.setOverflow_status, Bool.true_or]
      rw [List.take_append_of_le_length (by omega), List.take_append_of_le_length (by omega)]
      cases c <;> rfl

/-- Without a bound on the buffer's length: what an append leaves unchanged. -/
structure AppendFrame (s : State) (c : CursorSel) (t : State) : Prop where
  rest : t = (s.setCursor c (t.cursor c)).setOverflow t.status.overflow
  pos : (t.cursor c).pos = (s.cursor c).pos
  rem : (t.cursor c).rem = (s.cursor c).rem
  remBits : (t.cursor c).remBits = (s.cursor c).remBits
  longer : (s.cursor c).bufLen ≤ (t.cursor c).bufLen
  capped : (s.cursor c).bufLen ≤ s.cfg.capChars → (t.cursor c).bufLen ≤ s.cfg.capChars
  overflow : s.status.overflow = true → t.status.overflow = true

theorem AppendFrame.refl (s : State) (c : CursorSel) : AppendFrame s c s :=
  ⟨by cases c <;> rfl, rfl, rfl, rfl, Nat.le_refl _, id, id⟩

theorem AppendFrame.trans {s t u : State} {c : CursorSel} (h : AppendFrame s c t) (k : AppendFrame t c u) :
    AppendFrame s c u := by
  have hc : t.cfg = s.cfg := by rw [h.rest]; simp
  refine ⟨?_, k.pos.trans h.pos, k.rem.trans h.rem, k.remBits.trans h.remBits, h.longer.trans k.longer,
    fun x => by rw [← hc]; exact k.capped (by rw [hc]; exact h.capped x), fun x => k.overflow (h.overflow x)⟩
  have h1 := h.rest
  have h2 := k.rest
  rw [h1] at h2
  cases c <;> simpa [State.setCursor, State.setOverflow, State.cursor] using h2

theorem State.appendChar_frame (s : State) (c : CursorSel) (b : Byte) : AppendFrame s c (s.appendChar c b) := by
  rw [State.appendChar_spec]
  split
  · cases c <;> exact ⟨rfl, rfl, rfl, rfl, by simp [State.cursor, Cursor.bufLen, State.setCursor],
      fun _ => by simpa [State.cursor, Cursor.bufLen, State.setCursor] using ‹_ < _›, id⟩
  · cases c <;> exact ⟨rfl, rfl, rfl, rfl, Nat.le_refl _, id, fun _ => rfl⟩

theorem State.appendAll_frame (s : State) (c : CursorSel) (bs : List Byte) : AppendFrame s c (s.appendAll c bs) := by
  induction bs generalizing s with
  | nil => exact AppendFrame.refl s c
  | cons b bs ih => exact (State.appendChar_frame s c b).trans (ih _)

/-! ### The framer (spec/41_reassembler.md R123) -/

/-- A framing result is one of three. -/
theorem frame_error {l : List Byte} {r : ResultCode} (h : frame l = .error r) :
    r = .notAis ∨ r = .checksumFail ∨ r = .fieldErr := by
  unfold frame at h
  repeat' split at h
  all_goals first | (injection h with h; simp [← h]) | cases h

/-! ### The reassembler (R133) -/

/-- An accepted fragment ends in one of two ways (R139, R140), after its payload is appended. -/
theorem State.accept_cases (s : State) (f : Fragment) :
    ((f.total = 0#32 ∨ f.idx = s.rs.total) ∧
      s.accept f = ((s.appendAll .c0 f.payload).setRs Rs.idle).setLast .complete) ∨
    (f.total ≠ 0#32 ∧ f.idx ≠ s.rs.total ∧
      s.accept f = ((s.appendAll .c0 f.payload).setRs
        { s.rs with inProgress := true, lastIdx := f.idx }).setLast .needMore) := by
  have hr : (s.appendAll .c0 f.payload).rs = s.rs := by rw [(s.appendAll_frame .c0 f.payload).rest]; simp
  unfold State.accept
  simp only [hr]
  split
  · exact .inl ⟨‹_›, rfl⟩
  · next h => exact .inr ⟨fun x => h (.inl x), fun x => h (.inr x), rfl⟩

/-- `reassemble` ends in one of four ways (R133): a mismatch in progress, a continuation, a stray fragment while idle, a
first fragment. -/
theorem State.reassemble_cases (s : State) (f : Fragment) :
    (s.rs.inProgress = true ∧ s.rs.continuedBy f = false ∧ s.reassemble f = s.discard.setLast .outOfSeq) ∨
    (s.rs.inProgress = true ∧ s.rs.continuedBy f = true ∧ s.reassemble f = s.accept f) ∨
    (s.rs.inProgress = false ∧ f.idx ≠ 1#32 ∧ s.reassemble f = s.setLast .outOfSeq) ∨
    (s.rs.inProgress = false ∧ f.idx = 1#32 ∧
      s.reassemble f = ((s.setCursor .c0 Cursor.empty).setRs
        { s.rs with total := f.total, seq := f.seq, chan := f.chan }).accept f) := by
  unfold State.reassemble
  cases hp : s.rs.inProgress
  · by_cases hi : f.idx = 1#32 <;> simp [hi]
  · cases hc : s.rs.continuedBy f <;> simp

end Sys2Proof.Machine
end

