-- ==== Sys2Proof/Laws/Decoder.lean ====
section
/-! SUPPORT. What running descriptors can change (spec/44_decoders.md R176, R178, R184): C0's position, REC, C1 through
RESIDUAL, BADCHAR and the draw number, and nothing else. -/

namespace Sys2Proof.Machine

/-- The frame of a piece of DECODE. -/
structure DecFrame (s t : State) : Prop where
  cfg : t.cfg = s.cfg
  rs : t.rs = s.rs
  tag : t.tag = s.tag
  argA : t.argA = s.argA
  argB : t.argB = s.argB
  lineLen : t.lineLen = s.lineLen
  y0 : t.y0 = s.y0
  y1 : t.y1 = s.y1
  lineMem : t.lineMem = s.lineMem
  host : t.host = s.host
  resets : t.resets = s.resets
  status : t.status = { s.status with badchar := t.status.badchar }
  badchar : s.status.badchar = true → t.status.badchar = true
  buf : t.c0.buf = s.c0.buf
  c0 : ∀ cap, s.c0.Sound cap → t.c0.Sound cap
  c1 : ∀ cap, s.c0.Sound cap → s.c1.Sound cap → t.c1.Sound cap
  recs : MemorySound s.cfg.recWords s.recMem → MemorySound t.cfg.recWords t.recMem

theorem DecFrame.refl (s : State) : DecFrame s s :=
  ⟨rfl, rfl, rfl, rfl, rfl, rfl, rfl, rfl, rfl, rfl, rfl, rfl, id, rfl, fun _ h => h, fun _ _ h => h, id⟩

theorem DecFrame.trans {s t u : State} (h : DecFrame s t) (k : DecFrame t u) : DecFrame s u where
  cfg := k.cfg.trans h.cfg
  rs := k.rs.trans h.rs
  tag := k.tag.trans h.tag
  argA := k.argA.trans h.argA
  argB := k.argB.trans h.argB
  lineLen := k.lineLen.trans h.lineLen
  y0 := k.y0.trans h.y0
  y1 := k.y1.trans h.y1
  lineMem := k.lineMem.trans h.lineMem
  host := k.host.trans h.host
  resets := k.resets.trans h.resets
  status := by have := k.status; rw [h.status] at this; exact this
  badchar := fun x => k.badchar (h.badchar x)
  buf := k.buf.trans h.buf
  c0 := fun cap x => k.c0 cap (h.c0 cap x)
  c1 := fun cap x y => k.c1 cap (h.c0 cap x) (h.c1 cap x y)
  recs := fun x => k.recs (h.recs x)

theorem DecFrame.ofFetch (s : State) (n : Nat) : DecFrame s (s.fetch .c0 n).2 := by
  have h := s.fetch_frame .c0 n
  obtain ⟨h1, h2, h3, h4, h5, h6, h7, h8, h9, h10, h11, h12, h13⟩ := h.fields
  exact ⟨h1, h2, h3, h4, h5, h6, h7, h8, h9, h11, h12, h13, h.badchar, h.buf, fun cap x => h.sound cap x,
    fun cap _ y => by rw [h.other]; exact y, fun x => by rw [h1, h10]; exact x⟩

theorem DecFrame.ofPutRec (s : State) (i : Nat) (v : Word) : DecFrame s (s.putRec i v) where
  cfg := by simp
  rs := by simp
  tag := by simp
  argA := by simp
  argB := by simp
  lineLen := by simp
  y0 := by simp
  y1 := by simp
  lineMem := by simp
  host := by simp
  resets := by simp
  status := by simp
  badchar := by simp
  buf := by simp
  c0 := fun cap h => by simpa using h
  c1 := fun cap _ h => by simpa using h
  recs := fun h => State.putRec_recSound h i v

theorem DecFrame.ofClearRec (s : State) : DecFrame s s.clearRec :=
  ⟨rfl, rfl, rfl, rfl, rfl, rfl, rfl, rfl, rfl, rfl, rfl, rfl, id, rfl, fun _ h => h, fun _ _ h => h,
    fun _ => MemorySound.fill s.cfg.recWords 0#32⟩

theorem DecFrame.ofSnapshot (s : State) : DecFrame s s.snapshot :=
  ⟨rfl, rfl, rfl, rfl, rfl, rfl, rfl, rfl, rfl, rfl, rfl, rfl, id, rfl, fun _ h => h, fun _ h _ => h, id⟩

theorem State.fetchTo_frame (s : State) (w t : Nat) (f : Nat → Word) : DecFrame s (s.fetchTo w t f) :=
  (DecFrame.ofFetch s w).trans (DecFrame.ofPutRec _ t _)

theorem State.skipBits_frame (fuel w : Nat) (s : State) : DecFrame s (State.skipBits fuel w s) := by
  induction fuel generalizing w s with
  | zero => exact DecFrame.refl s
  | succ fuel ih =>
    unfold State.skipBits
    split
    · exact DecFrame.refl s
    · exact (DecFrame.ofFetch s _).trans (ih _ _)

theorem State.textTo_frame (k t : Nat) (s : State) : DecFrame s (State.textTo k t s) := by
  induction k generalizing t s with
  | zero => exact DecFrame.refl s
  | succ k ih => exact (s.fetchTo_frame 6 t _).trans (ih _ _)

theorem repeatLoop_frame (run : Nat → State → State) (h : ∀ b s, DecFrame s (run b s)) (width base stride rounds i : Nat)
    (s : State) : DecFrame s (repeatLoop run width base stride rounds i s).2 := by
  induction rounds generalizing i s with
  | zero => exact DecFrame.refl s
  | succ rounds ih =>
    unfold repeatLoop
    split
    · exact (h _ s).trans (ih _ _)
    · exact DecFrame.refl s

mutual
/-- Everything a descriptor can change. -/
theorem runDesc_frame (d : Desc) (base : Nat) (s : State) : DecFrame s (runDesc d base s) := by
  cases d with
  | u w t => rw [runDesc]; exact s.fetchTo_frame _ _ _
  | s w t => rw [runDesc]; exact s.fetchTo_frame _ _ _
  | lat27 t => rw [runDesc]; exact s.fetchTo_frame _ _ _
  | lon28 t => rw [runDesc]; exact s.fetchTo_frame _ _ _
  | lat17 t => rw [runDesc]; exact s.fetchTo_frame _ _ _
  | lon18 t => rw [runDesc]; exact s.fetchTo_frame _ _ _
  | text k t => rw [runDesc]; exact State.textTo_frame _ _ s
  | skip w => rw [runDesc]; exact State.skipBits_frame _ _ s
  | flagor t m => rw [runDesc]; exact DecFrame.ofPutRec s _ _
  | sel f d0 d1 =>
    simp only [runDesc]
    split
    · exact runDescs_frame d0 base s
    · exact runDescs_frame d1 base s
  | case f arms dflt => rw [runDesc]; exact runArms_frame arms _ _ (fun t => runDescs_frame dflt base t) base s
  | rept c max sub stride =>
    rw [runDesc]
    exact (repeatLoop_frame _ (fun b t => runDescs_frame sub b t) _ _ _ _ _ s).trans (DecFrame.ofPutRec _ _ _)
  | residual t => rw [runDesc]; exact (DecFrame.ofPutRec s _ _).trans (DecFrame.ofSnapshot _)

/-- Everything a list of descriptors can change. -/
theorem runDescs_frame (ds : Descs) (base : Nat) (s : State) : DecFrame s (runDescs ds base s) := by
  cases ds with
  | nil => exact DecFrame.refl s
  | cons d ds => exact (runDesc_frame d base s).trans (runDescs_frame ds base _)

/-- Everything the arms of a CASE can change. -/
theorem runArms_frame (arms : Arms) (v : Word) (dflt : State → State) (hd : ∀ s, DecFrame s (dflt s)) (base : Nat)
    (s : State) : DecFrame s (runArms arms v dflt base s) := by
  cases arms with
  | nil => exact hd s
  | cons value ds rest =>
    simp only [runArms]
    split
    · exact runDescs_frame ds base s
    · exact runArms_frame rest v dflt hd base s
end

/-- What reading the tag changes beside C0, BADCHAR and the draw number: TAG and Y0 (spec/42_dispatch.md R149). -/
theorem State.readTag_spec (s : State) :
    s.readTag.1 = (s.fetch .c0 6).1 ∧
    s.readTag.2 =
      { (s.fetch .c0 6).2 with tag := BitVec.ofNat 6 (s.fetch .c0 6).1, y0 := BitVec.ofNat 64 (s.fetch .c0 6).1 } :=
  ⟨rfl, rfl⟩

/-- DECODE past its layout ends in one of two ways (R184, R189). -/
theorem State.decodeWith_cases (s : State) (tag len : Nat) (l : Layout) :
    (l.len.ok len = true ∧ ∃ u, DecFrame s u ∧ s.decodeWith tag len l = u.setLast .ok) ∨
    (l.len.ok len = false ∧ s.decodeWith tag len l = s.setLast .lengthErr) := by
  unfold State.decodeWith
  split
  · refine .inl ⟨‹_›, _, ?_, rfl⟩
    refine DecFrame.trans ?_ (runDescs_frame _ _ _)
    refine DecFrame.trans ?_ (DecFrame.ofPutRec _ _ _)
    split
    · exact DecFrame.ofClearRec s
    · exact DecFrame.refl s
  · exact .inr ⟨Bool.eq_false_iff.mpr ‹_›, rfl⟩

end Sys2Proof.Machine
end

