-- ==== Sys2Proof/Machine/Instances.lean ====
section
/-! DEFINITION. Several blocks (spec/00_scope.md R16, spec/60_exceptions.md R218): each is one State of its own, and a
step of one touches no other. -/

namespace Sys2Proof.Machine

/-- The blocks after number `k` makes one step; none where it stops or does not exist. -/
def stepOne : (k : Nat) → List State → Option (List State)
  | _, [] => none
  | 0, s :: ss =>
    match step s with
    | .next t => some (t :: ss)
    | .fault _ => none
    | .refused _ => none
  | k + 1, s :: ss => (stepOne k ss).map (fun ts => s :: ts)

end Sys2Proof.Machine
end

