-- ==== Sys2Proof/Laws/Instances.lean ====
section
/-! SUPPORT. Several blocks: a step of one is its own step, and every other block stays as it is (spec/00_scope.md R16,
spec/60_exceptions.md R218). -/

namespace Sys2Proof.Machine

/-- Everything `stepOne` can do. -/
theorem stepOne_eq_some_iff (k : Nat) (ss ts : List State) :
    stepOne k ss = some ts ↔ ∃ s t, ss[k]? = some s ∧ step s = .next t ∧ ts = ss.set k t := by
  induction ss generalizing k ts with
  | nil => simp [stepOne]
  | cons s ss ih =>
    cases k with
    | zero =>
      cases h : step s <;> simp [stepOne, h, eq_comm]
    | succ k =>
      simp only [stepOne, Option.map_eq_some_iff, ih, List.getElem?_cons_succ, List.set_cons_succ]
      constructor
      · rintro ⟨us, ⟨u, t, h1, h2, rfl⟩, rfl⟩
        exact ⟨u, t, h1, h2, rfl⟩
      · rintro ⟨u, t, h1, h2, rfl⟩
        exact ⟨_, ⟨u, t, h1, h2, rfl⟩, rfl⟩

end Sys2Proof.Machine
end

