-- ==== Sys2Proof/Laws/PerInstr.lean ====
section
/-! SUPPORT. Statements made once for every command: family `ReservedClear`, the word of a command carries an assigned
opcode and no reserved bit (spec/30_encoding.md R54, R55, R58). -/

/-- The OPC of the word of `i` is in the opcode map, and the bits that row's format reserves are 0. -/
def Sys2Proof.Laws.ReservedClear.Statement (i : Sys2Proof.Instr) : Prop :=
  ∃ r, Sys2Proof.opRow (Sys2Proof.fieldOpc (Sys2Proof.encode i)) = some r ∧
    Sys2Proof.encode i &&& Sys2Proof.rsvMask r.format = 0#32

namespace Sys2Proof.Laws.ReservedClear

theorem nop : Statement .nop := ⟨_, rfl, rfl⟩
theorem reset : Statement .reset := ⟨_, rfl, rfl⟩
theorem clrflags : Statement .clrflags := ⟨_, rfl, rfl⟩
theorem bcInit (c : CursorSel) : Statement (.bcInit c) := by cases c <;> exact ⟨_, rfl, rfl⟩
theorem bcClear (c : CursorSel) : Statement (.bcClear c) := by cases c <;> exact ⟨_, rfl, rfl⟩
theorem bcAppend (c : CursorSel) : Statement (.bcAppend c) := by cases c <;> exact ⟨_, rfl, rfl⟩
theorem bcFetch (c : CursorSel) (n : Sextet) : Statement (.bcFetch c n) := by
  have h : fieldOpc (encode (.bcFetch c n)) = 0x13#8 := by cases c <;> (revert n; decide +kernel)
  exact ⟨_, by rw [h]; rfl, by cases c <;> (revert n; decide +kernel)⟩
theorem bcFetchs (c : CursorSel) (n : Sextet) : Statement (.bcFetchs c n) := by
  have h : fieldOpc (encode (.bcFetchs c n)) = 0x14#8 := by cases c <;> (revert n; decide +kernel)
  exact ⟨_, by rw [h]; rfl, by cases c <;> (revert n; decide +kernel)⟩
theorem bcLength (c : CursorSel) : Statement (.bcLength c) := by cases c <;> exact ⟨_, rfl, rfl⟩
theorem bcSnapshot : Statement .bcSnapshot := ⟨_, rfl, rfl⟩
theorem feed : Statement .feed := ⟨_, rfl, rfl⟩
theorem rsReset : Statement .rsReset := ⟨_, rfl, rfl⟩
theorem dispatch : Statement .dispatch := ⟨_, rfl, rfl⟩
theorem decode : Statement .decode := ⟨_, rfl, rfl⟩
theorem recClear : Statement .recClear := ⟨_, rfl, rfl⟩
theorem signrec : Statement .signrec := ⟨_, rfl, rfl⟩
theorem posrec : Statement .posrec := ⟨_, rfl, rfl⟩
theorem posrec27 : Statement .posrec27 := ⟨_, rfl, rfl⟩
theorem deg : Statement .deg := ⟨_, rfl, rfl⟩
theorem degmin : Statement .degmin := ⟨_, rfl, rfl⟩
theorem ascii6 : Statement .ascii6 := ⟨_, rfl, rfl⟩
theorem armor6 : Statement .armor6 := ⟨_, rfl, rfl⟩

end Sys2Proof.Laws.ReservedClear
end

