-- ==== Sys2Proof/Tests/Slice0.lean ====
section
/-! SUPPORT. Tests: ill-formed terms refused, words written out from spec/30_encoding.md, one-step vectors of
spec/95_test_vectors.md, and a witness for the hypotheses of each obligation that has some. -/

namespace Sys2Proof.Tests

-- The kernel evaluations below run one after the other: each in a thread of its own would exhaust the memory limit.
set_option Elab.async false

open Sys2Proof.Machine

/-! ### Helpers -/

/-- ASCII text as bytes. -/
def ascii (l : List Char) : List Byte := l.map (fun c => BitVec.ofNat 8 c.toNat)

/-- An element array with the elements of `l` written from index 0 on. -/
def loaded {w : Nat} (l : List (BitVec w)) : Memory w := (List.range l.length).zip l

/-- After reset, with `text` in LINE and its length in LINE_LEN. -/
def withLine (text : List Byte) (s : State) : State :=
  { s with lineMem := loaded text, lineLen := BitVec.ofNat 32 text.length }

/-- After reset, with operands. -/
def withArgs (a b : Word) : State := { State.reset with argA := a, argB := b }

/-- After reset, with `text` appended to C0. -/
def withC0 (text : List Byte) : State := { State.reset with c0 := { Cursor.empty with buf := text } }

/-- The next state of an outcome. -/
def nextOf : Result → Option State
  | .next t => some t
  | .fault _ => none
  | .refused _ => none

/-- The state an outcome goes on with, reset where it stops. -/
def goOn (r : Result) : State := (nextOf r).getD State.reset

/-- Something a command leaves. -/
def left {α : Type} (i : Instr) (s : State) (f : State → α) : Option α := (nextOf (exec i s)).map f

/-- Y0 and Y1. -/
def ys (s : State) : DWord × DWord := (s.y0, s.y1)

/-- POS, REM, REM_BITS of a cursor. -/
def place (c : Cursor) : Nat × Nat × Nat := (c.pos, c.rem.toNat, c.remBits.toNat)

/-- The payload of L1-4. -/
def payload1 : List Byte :=
  ascii ['1', '9', 'N', 'S', '7', 'S', 'p', '0', '2', 'w', 'o', '?', 'H', 'E', 'T', 'K', 'A', '2', 'K', '6', 'm', 'U',
    'M', '2', '0', '<', 'L', '=']

/-- The payload of L1-5. -/
def payload5 : List Byte :=
  ascii ['5', '5', 'M', 'f', '@', '6', 'P', '0', '0', '0', '0', '1', 'M', 'U', 'S', ';', '7', 'G', 'Q', 'L',
    '4', 'h', 'h', '6', '1', 'L', '4', 'h', 'h', '6', '2', '2', '2', '2', '2', '2'] ++
  ascii ['2', '2', '0', 't', '4', '1', 'H', '=', '=', '4', '0', 'H', 't', 'I', '4', 'i', '@', 'E', '5', '3',
    '1', 'H', '1', 'Q', 'D', 'T', 'V', 'H', '5', '1', 'D', 'S', 'C', 'S', '0']

/-- F1 of L2-C: `!AIVDM,2,1,3,B,55,0*` and its checksum. -/
def lineF1 : List Byte :=
  ascii ['!', 'A', 'I', 'V', 'D', 'M', ',', '2', ',', '1', ',', '3', ',', 'B', ',', '5', '5', ',', '0', '*', '1', '5']

/-- F2 of L2-C: `!AIVDM,2,2,3,B,5,0*` and its checksum. -/
def lineF2 : List Byte :=
  ascii ['!', 'A', 'I', 'V', 'D', 'M', ',', '2', ',', '2', ',', '3', ',', 'B', ',', '5', ',', '0', '*', '2', '3']

def fragment1 : Fragment :=
  { total := 2#32, idx := 1#32, seq := 3#32, chan := 0x42#8, payload := ascii ['5', '5'] }

def fragment2 : Fragment := { total := 2#32, idx := 2#32, seq := 3#32, chan := 0x42#8, payload := ascii ['5'] }

/-- F1 in LINE, nothing in progress. -/
def idle : State := withLine lineF1 State.reset

/-- After F1, with F2 in LINE. -/
def midway : State := withLine lineF2 (goOn (exec .feed idle))

/-- C0 inside a character, the flags set, operands loaded. -/
def busy : State :=
  { withLine (ascii ['1', '9', 'N', 'S']) State.reset with
    c0 := { buf := ascii ['1', '9', 'N', 'S'], pos := 2, rem := 0b01001#6, remBits := 5#3 }
    argA := 1#32, argB := 2#32
    status := { Status.clear with badchar := true, overflow := true } }

/-- After a BAD_OPCODE fault. -/
def faulted : State := { busy with status := { Status.clear with last := 15#4, fault := true, faultCause := 1#4 } }

/-- `s` with one event to come. -/
def next (e : Event) (s : State) : State := s.push e

/-! ### Well-formedness -/

theorem test_width_0_refused : (Instr.bcFetch .c0 0#6).wf = false := by decide
theorem test_width_33_refused : (Instr.bcFetchs .c1 33#6).wf = false := by decide
theorem test_widths_1_and_32 : (Instr.bcFetch .c0 1#6).wf = true ∧ (Instr.bcFetchs .c1 32#6).wf = true := by decide

theorem test_default_config_wf : Config.default.wf = true := by decide +kernel

/-- The default configuration with one more layout, for tag `t`. -/
def adding (t : Nat) (l : Layout) : Config := { Config.default with layouts := (t, l) :: Config.default.layouts }

/-- A layout of 12 bits. -/
def short (zeroFill : Bool) (ds : List Desc) : Layout := { len := .exact 12, zeroFill := zeroFill, descs := descs ds }

theorem test_sizes_refused :
    ({ Config.default with capChars := 0 }).wf = false ∧ ({ Config.default with capChars := 1025 }).wf = false ∧
    ({ Config.default with lineCap := 0 }).wf = false ∧ ({ Config.default with lineCap := 1025 }).wf = false ∧
    ({ Config.default with recWords := 63 }).wf = false ∧ ({ Config.default with recWords := 1025 }).wf = false := by
  decide +kernel

theorem test_tags_refused :
    ({ Config.default with knownTags := 64 :: Config.default.knownTags }).wf = false ∧
    (adding 0 (short true [])).wf = false ∧ (adding 1 (short true [])).wf = false := by
  decide +kernel

theorem test_slots_refused :
    (adding 2 (short true [.u 6 0])).wf = false ∧ (adding 2 (short true [.u 6 128])).wf = false ∧
    (adding 2 (short true [.u 6 127])).wf = true := by
  decide +kernel

/-- R8: a slot that a REPEAT of no pass names. -/
theorem test_named_slots_refused :
    (adding 2 (short true [.rept 1 0 (descs [.u 8 5000]) 1])).wf = false ∧
    (adding 2 (short true [.rept 1 0 (descs [.u 8 127]) 1])).wf = true ∧
    (adding 2 (short true [.rept 1 0 (descs [.text 2 127]) 1])).wf = false := by
  decide +kernel

theorem test_parameters_refused :
    (adding 2 (short true [.u 33 1])).wf = false ∧ (adding 2 (short true [.s 0 1])).wf = false ∧
    (adding 2 (short true [.skip 0])).wf = false ∧ (adding 2 (short true [.text 0 1])).wf = false ∧
    (adding 2 (short true [.rept 1 2 (descs []) 1])).wf = false ∧
    (adding 2 (short true [.rept 1 2 (descs [.residual 2]) 1])).wf = false ∧
    (adding 2 ⟨.range 12 6, true, descs []⟩).wf = false := by
  decide +kernel

theorem test_selectors_refused :
    (adding 2 (short true [.sel 1 (descs []) (descs [])])).wf = false ∧
    (adding 2 (short true [.u 1 1, .sel 1 (descs []) (descs [])])).wf = true := by
  decide +kernel

/-- A type 24 layout: a part number in slot 1, the halves in slots 2 and 3, the flags in slot 4. -/
def layout24 : Layout :=
  short false
    [ .u 2 1,
      .case 1 (.cons 0#32 (descs [.u 4 2, .flagor 4 1#32]) (.cons 1#32 (descs [.u 4 3, .flagor 4 2#32]) .nil)) .nil ]

theorem test_type_forms_refused :
    (adding 24 layout24).wf = true ∧ (adding 24 { layout24 with zeroFill := true }).wf = false ∧
    (adding 24 (short false [.u 2 1])).wf = false ∧ (adding 2 (short false [])).wf = false ∧
    (adding 6 (short true [.u 2 1])).wf = false ∧ (adding 6 (short true [.u 2 1, .residual 2])).wf = true ∧
    (adding 27 (short true [.lat27 1, .lon28 2])).wf = false ∧ (adding 27 (short true [.lat17 1, .lon18 2])).wf = true ∧
    (adding 2 (short true [.lat17 1])).wf = false := by
  decide +kernel

/-- A type 24 layout with this header, and these descriptors before the halves' FLAGORs into slot 4. -/
def halves (header a b : List Desc) : Layout :=
  short false (header ++ [.case 1 (.cons 0#32 (descs (a ++ [.flagor 4 1#32]))
    (.cons 1#32 (descs (b ++ [.flagor 4 2#32])) .nil)) .nil])

/-- R193: the flags written by the header or a half, the part number written again, halves that share a slot. -/
theorem test_type24_forms_refused :
    (adding 24 (halves [.u 2 1] [.u 4 2] [.u 4 3])).wf = true ∧
    (adding 24 (halves [.u 8 4, .u 2 1] [.flagor 4 2#32] [])).wf = false ∧
    (adding 24 (halves [.u 2 1, .flagor 4 3#32] [] [])).wf = false ∧
    (adding 24 (halves [.u 2 1] [.flagor 4 2#32] [])).wf = false ∧
    (adding 24 (halves [.u 2 1] [] [.u 4 4])).wf = false ∧
    (adding 24 (halves [.u 2 1, .u 8 1] [] [])).wf = false ∧
    (adding 24 (halves [.u 8 1, .u 2 1] [] [])).wf = true ∧
    (adding 24 (halves [.u 2 1] [.u 4 2] [.u 4 2])).wf = false := by
  decide +kernel

theorem test_ill_formed_config_refused :
    step { State.reset with cfg := { Config.default with capChars := 0 } } = .refused .illFormedConfig := rfl

/-! ### Decoding: each command's word, bit by bit from R55 and R58 -/

theorem test_decode_nop : decode 0b00000000000000000000000000000000#32 = .ok .nop := rfl
theorem test_decode_reset : decode 0b00000001000000000000000000000000#32 = .ok .reset := rfl
theorem test_decode_clrflags : decode 0b00000010000000000000000000000000#32 = .ok .clrflags := rfl
theorem test_decode_bc_init : decode 0b00010000000000010000000000000000#32 = .ok (.bcInit .c1) := rfl
theorem test_decode_bc_clear : decode 0b00010001000000000000000000000000#32 = .ok (.bcClear .c0) := rfl
theorem test_decode_bc_append : decode 0b00010010000000010000000000000000#32 = .ok (.bcAppend .c1) := rfl
theorem test_decode_bc_fetch : decode 0b00010011000000010000000000100000#32 = .ok (.bcFetch .c1 32#6) := rfl
theorem test_decode_bc_fetchs : decode 0b00010100000000000000000000000001#32 = .ok (.bcFetchs .c0 1#6) := rfl
theorem test_decode_bc_length : decode 0b00010101000000010000000000000000#32 = .ok (.bcLength .c1) := rfl
theorem test_decode_bc_snapshot : decode 0b00010110000000000000000000000000#32 = .ok .bcSnapshot := rfl
theorem test_decode_feed : decode 0b00100000000000000000000000000000#32 = .ok .feed := rfl
theorem test_decode_rs_reset : decode 0b00100001000000000000000000000000#32 = .ok .rsReset := rfl
theorem test_decode_dispatch : decode 0b00110000000000000000000000000000#32 = .ok .dispatch := rfl
theorem test_decode_decode : decode 0b00110001000000000000000000000000#32 = .ok .decode := rfl
theorem test_decode_rec_clear : decode 0b00110010000000000000000000000000#32 = .ok .recClear := rfl
theorem test_decode_signrec : decode 0b01000000000000000000000000000000#32 = .ok .signrec := rfl
theorem test_decode_posrec : decode 0b01000001000000000000000000000000#32 = .ok .posrec := rfl
theorem test_decode_posrec27 : decode 0b01000010000000000000000000000000#32 = .ok .posrec27 := rfl
theorem test_decode_deg : decode 0b01000011000000000000000000000000#32 = .ok .deg := rfl
theorem test_decode_degmin : decode 0b01000100000000000000000000000000#32 = .ok .degmin := rfl
theorem test_decode_ascii6 : decode 0b01000101000000000000000000000000#32 = .ok .ascii6 := rfl
theorem test_decode_armor6 : decode 0b01000110000000000000000000000000#32 = .ok .armor6 := rfl

/-- L2-F: the illegal words. -/
theorem test_decode_errors :
    decode 0x03000000#32 = .error .badOpcode ∧ decode 0xFF000000#32 = .error .badOpcode ∧
    decode 0x00000001#32 = .error .reservedBits ∧ decode 0x10000001#32 = .error .reservedBits ∧
    decode 0x16010000#32 = .error .reservedBits ∧ decode 0x13020006#32 = .error .reservedBits ∧
    decode 0x13000106#32 = .error .reservedBits ∧ decode 0x01000001#32 = .error .reservedBits ∧
    decode 0x13000000#32 = .error .badWidth ∧ decode 0x13000021#32 = .error .badWidth ∧
    decode 0x1300003F#32 = .error .badWidth := by
  decide +kernel

theorem test_table_word : decodeTableWord 32 0x13000006 = some (.bcFetch .c0 6#6) := rfl

theorem test_fetch_word_runs :
    (nextOf (step (State.reset.withFetchWord 32 0x15000000))).map (fun t => (t.y0, t.host.position)) = some (0#64, 1) := by
  decide +kernel

/-! ### One-step vectors -/

/-- L2-F and R208: STATUS after a BAD_OPCODE fault. -/
theorem test_bad_opcode_status :
    (nextOf (step (next (.write 0 4 0x03000000#32) State.reset))).map State.statusWord = some 0x0011000F#32 := by
  decide +kernel

/-- R201's example: NOP after a NEED_MORE. -/
theorem test_nop : left .nop midway State.statusWord = some 0x1000#32 := by decide +kernel

/-- R202's example. -/
theorem test_reset : left .reset faulted (fun t => (t.statusWord, t.c0.bufLen)) = some (0#32, 0) := by decide +kernel

theorem test_clrflags : busy.statusWord = 0x300#32 ∧ left .clrflags busy State.statusWord = some 0#32 := by
  decide +kernel

theorem test_bc_init : left (.bcInit .c0) busy (fun t => (place t.c0, t.c0.bufLen)) = some ((0, 0, 0), 4) := by
  decide +kernel

theorem test_bc_clear : left (.bcClear .c0) busy (fun t => (place t.c0, t.c0.bufLen)) = some ((0, 0, 0), 0) := by
  decide +kernel

/-- LINE[1..2] of "19NS". -/
theorem test_bc_append : left (.bcAppend .c1) busy (fun t => t.c1.buf) = some [0x39#8, 0x4E#8] := by decide +kernel

theorem test_bc_append_outside_line :
    left (.bcAppend .c0) (withArgs 250#32 7#32) State.statusWord = some 0x0041000F#32 ∧
    left (.bcAppend .c0) (withArgs 256#32 0#32) State.statusWord = some 0#32 := by
  decide +kernel

/-- L1-1, the fourth fetch but from POS 2 with REM 01001. -/
theorem test_bc_fetch :
    left (.bcFetch .c0 1#6) busy (fun t => (t.y0, place t.c0)) = some (0#64, (2, 0b1001, 4)) ∧
    left (.bcFetch .c0 9#6) busy (fun t => (t.y0, place t.c0)) = some (0x97#64, (3, 0b10, 2)) := by
  decide +kernel

theorem test_bc_fetch_underrun :
    left (.bcFetch .c0 12#6) (withC0 (ascii ['1'])) (fun t => (t.y0, place t.c0)) = some (0x40#64, (1, 0, 0)) := by
  decide +kernel

theorem test_bc_fetchs :
    left (.bcFetchs .c0 6#6) (withC0 (ascii ['P'])) ys = some (0xFFFFFFFFFFFFFFE0#64, 0#64) ∧
    left (.bcFetchs .c0 6#6) (withC0 (ascii ['O'])) ys = some (0x1F#64, 0#64) := by
  decide +kernel

theorem test_bc_fetchs_bad_char :
    left (.bcFetchs .c0 6#6) (withC0 (ascii ['X'])) (fun t => (t.statusWord, place t.c0)) =
      some (0x100#32, (1, 0, 0)) := by
  decide +kernel

theorem test_bc_length : left (.bcLength .c0) busy ys = some (17#64, 0#64) := by decide +kernel

theorem test_bc_snapshot : left .bcSnapshot busy (fun t => place t.c1) = some (2, 0b01001, 5) := by decide +kernel

/-- L2-C: F1, then F2. -/
theorem test_feed :
    left .feed idle (fun t => (t.statusWord, t.rs.total, t.rs.lastIdx, t.c0.bufLen)) = some (0x1002#32, 2#32, 1#32, 2) ∧
    left .feed midway (fun t => (t.statusWord, t.rs.total, t.rs.lastIdx, t.c0.bufLen)) = some (1#32, 0#32, 0#32, 3) := by
  decide +kernel

/-- L2-B: no '*', no sixth field, no marker. -/
theorem test_feed_rejects :
    left .feed (withLine (lineF1.take 19) State.reset) State.statusWord = some 3#32 ∧
    left .feed (withLine (ascii ['!', 'A', 'I', 'V', 'D', 'M', ',', '1', ',', '1', ',', ',', 'B', '*', '1', '5'])
      State.reset) State.statusWord = some 5#32 ∧
    left .feed State.reset State.statusWord = some 4#32 := by
  decide +kernel

theorem test_rs_reset :
    left .rsReset { midway with tag := 5#6 } (fun t => (t.statusWord, t.rs, t.c0.bufLen, t.tag)) =
      some (0#32, Rs.idle, 0, 0#6) := by
  decide +kernel

theorem test_dispatch :
    left .dispatch (withC0 payload1) (fun t => (t.statusWord, t.tag, t.y0)) = some (0#32, 1#6, 1#64) ∧
    left .dispatch (withC0 (ascii ['0'])) (fun t => (t.statusWord, t.tag, t.y0)) = some (7#32, 0#6, 0#64) := by
  decide +kernel

/-- L1-4: longitude, latitude, sub_message, and a zero-filled slot. -/
theorem test_decode_type1 :
    left .decode (withC0 payload1) (fun t => (t.statusWord, t.recWord 7, t.recWord 8, t.recWord 17, t.recWord 127)) =
      some (0#32, 0xFB9EC2B2#32, 0x01B4426C#32, 0x70D#32, 0#32) := by
  decide +kernel

/-- L2-D: a payload one character short, and tag 2, which has no layout. -/
theorem test_decode_stops :
    left .decode (withC0 (payload1.take 27)) (fun t => (t.statusWord, t.tag, t.recMem)) = some (8#32, 1#6, []) ∧
    nextOf (exec .decode (withC0 (ascii ['2']))) = none := by
  decide +kernel

theorem test_rec_clear : left .recClear State.reset (fun t => (t.recWord 0, t.recWord 127)) = some (0#32, 0#32) := by
  decide +kernel

theorem test_signrec :
    left .signrec (withArgs 0x1C0#32 0x100#32) ys = some (0xFFFFFFFFFFFFFFC0#64, 0#64) ∧
    left .signrec (withArgs 0x80000000#32 0x80000000#32) ys = some (0xFFFFFFFF80000000#64, 0#64) := by
  decide +kernel

theorem test_signrec_faults :
    left .signrec (withArgs 0x5#32 0x3#32) State.statusWord = some 0x0041000F#32 ∧
    left .signrec (withArgs 0x40#32 0x20#32) State.statusWord = some 0x0041000F#32 := by
  decide +kernel

theorem test_posrec :
    left .posrec (withArgs 0x1B4426C#32 0xB9EC2B2#32) ys = some (0x1B4426C#64, 0xFFFFFFFFFB9EC2B2#64) := by
  decide +kernel

theorem test_posrec27 :
    left .posrec27 (withArgs 0x1FFFF#32 0x1FFFF#32) ys = some (0xFFFFFFFFFFFFFC18#64, 0x7CFFC18#64) := by
  decide +kernel

/-- L2-E: 2147483647 and -1. -/
theorem test_deg :
    left .deg (withArgs 0x7FFFFFFF#32 0#32) ys = some (0x40ABF64760F74A07#64, 0#64) ∧
    left .deg (withArgs 0xFFFFFFFF#32 0#32) ys = some (0xBEBBF647612F3696#64, 0#64) := by
  decide +kernel

/-- L2-E: -73481550 and -600000. -/
theorem test_degmin :
    left .degmin (withArgs 0xFB9EC2B2#32 0#32) ys = some (0x403C27AE147AE148#64, 0xFFFFFFFFFFFFFF86#64) ∧
    left .degmin (withArgs 0xFFF6D840#32 0#32) ys = some (0#64, 0xFFFFFFFFFFFFFFFF#64) := by
  decide +kernel

theorem test_ascii6 :
    left .ascii6 (withArgs 0xFFFFFFC1#32 0#32) ys = some (0x41#64, 0#64) ∧
    left .ascii6 (withArgs 0x20#32 0#32) ys = some (0x20#64, 0#64) := by
  decide +kernel

theorem test_armor6 :
    left .armor6 (withArgs 0x130#32 0#32) ys = some (0#64, 0#64) ∧
    left .armor6 (withArgs 0x58#32 0#32) ys = some (0xFFFFFFFFFFFFFFFF#64, 0#64) := by
  decide +kernel

/-- R209: a faulted block ignores a command. -/
theorem test_faulted_ignores : left .bcSnapshot faulted (fun t => (t.statusWord, t.c1.bufLen)) = some (0x0011000F#32, 0) := by
  decide +kernel

/-- R33, R34: a byte written to LINE[255] and read back; a write to a read-only word has no effect. -/
theorem test_host_accesses :
    (nextOf (step (next (.write 0x13FC 4 0x1FF#32) State.reset))).map (fun t => t.portWord (.line 255)) = some 0xFF#32 ∧
    (nextOf (step (next (.read 0x48 4) busy))).map (fun t => t.host.reads) = some [0x509#32] ∧
    (nextOf (step (next (.write 0x20 4 0#32) busy))).map State.statusWord = some 0x300#32 := by
  decide +kernel

/-! ### Witnesses: states and operands that meet the hypotheses of each obligation -/

theorem busy_c0_sound : busy.c0.Sound busy.cfg.capChars :=
  ⟨by decide, by decide +kernel, by decide, by decide⟩

theorem empty_sound : Cursor.empty.Sound Config.default.capChars :=
  ⟨by decide, by decide, by decide, by decide⟩

/-- `s` with the host's next access at `busy`, and a later one. -/
def host (e : Event) : State := { busy with host := { busy.host with pending := [e, .hwReset] } }

theorem witness_DecodeEncodeRoundTrip : (Instr.bcFetch .c1 32#6).wf = true ∧ Instr.feed.wf = true := by decide

theorem witness_EncodeDecodeRoundTrip : decode 0x13010020#32 = .ok (.bcFetch .c1 32#6) := rfl

/-- Each side of each clause: the ends of the unassigned ranges, a reserved bit of each format, the widths about 1..32. -/
theorem witness_IllegalWordsAreToldApart :
    (∀ opc ∈ [0x03, 0x0F, 0x17, 0x1F, 0x22, 0x2F, 0x33, 0x3F, 0x47, 0xFF],
      decode (BitVec.ofNat 32 (opc * 2 ^ 24 + 1)) = .error .badOpcode) ∧
    (∀ opc ∈ [0x00, 0x02, 0x16, 0x20, 0x21, 0x30, 0x32, 0x40, 0x46],
      decode (BitVec.ofNat 32 (opc * 2 ^ 24 + 2 ^ 16)) = .error .reservedBits) ∧
    (∀ opc ∈ [0x10, 0x12, 0x15],
      decode (BitVec.ofNat 32 (opc * 2 ^ 24 + 1)) = .error .reservedBits) ∧
    (∀ opc ∈ [0x13, 0x14],
      decode (BitVec.ofNat 32 (opc * 2 ^ 24 + 64)) = .error .reservedBits ∧
      decode (BitVec.ofNat 32 (opc * 2 ^ 24)) = .error .badWidth ∧
      decode (BitVec.ofNat 32 (opc * 2 ^ 24 + 33)) = .error .badWidth ∧
      (decode (BitVec.ofNat 32 (opc * 2 ^ 24 + 1))).toOption.isSome = true ∧
      (decode (BitVec.ofNat 32 (opc * 2 ^ 24 + 32))).toOption.isSome = true) := by
  decide +kernel

theorem witness_StepExecutesTheWrittenCommand :
    let s := host (.write 0 4 0x20000000#32)
    s.cfg.wf = true ∧ s.host.pending = [.write s.cfg.base 4 0x20000000#32, .hwReset] ∧
    decode 0x20000000#32 = .ok .feed ∧ Instr.feed.wf = true :=
  ⟨test_default_config_wf, rfl, rfl, rfl⟩

/-- One word for each cause. -/
theorem witness_IllegalWordWritesTheFaultFieldsOnly :
    ∀ p ∈ [(0x47000000#32, DecodeError.badOpcode), (0x00010000#32, .reservedBits), (0x13000021#32, .badWidth)],
      let s := host (.write 0 4 p.1)
      s.cfg.wf = true ∧ s.host.pending = [.write s.cfg.base 4 p.1, .hwReset] ∧ decode p.1 = .error p.2 ∧
      s.status.fault = false := by
  decide +kernel

/-- A word with a reserved bit, and RESET. -/
theorem witness_FaultedBlockIgnoresEveryWordButReset :
    let s (v : Word) := next (.write 0 4 v) faulted
    ((s 0x01000001#32).cfg.wf = true ∧ (s 0x01000001#32).host.pending = [.write (s 0#32).cfg.base 4 0x01000001#32] ∧
      (s 0x01000001#32).status.fault = true ∧ 0x01000001#32 ≠ 0x01000000#32) ∧
    ((s 0x01000000#32).cfg.wf = true ∧ (s 0x01000000#32).host.pending = [.write (s 0#32).cfg.base 4 0x01000000#32] ∧
      (s 0x01000000#32).status.fault = true) :=
  ⟨⟨test_default_config_wf, rfl, rfl, by decide⟩, test_default_config_wf, rfl, rfl⟩

theorem witness_OnlyResetEndsAFault :
    ∀ e ∈ [Event.hwReset, .write 0 4 0x01000000#32, .write 0 4 0x20000000#32, .read 0x20 4],
      (nextOf (step (next e faulted))).isSome = true ∧ (next e faulted).status.fault = true := by
  decide +kernel

/-- The first and the last register, and STATUS. -/
theorem witness_HostReadsEveryRegister :
    ∀ off ∈ [0x0000, 0x0020, 0x0058],
      let s := host (.read off 4)
      s.cfg.wf = true ∧ s.host.pending = [.read (s.cfg.base + off) 4, .hwReset] := by
  decide +kernel

/-- The last element of LINE and REC, the last stored character and the one after it. -/
theorem witness_HostReadsEveryArrayElement :
    ∀ p ∈ [(0x1000, 255), (0x4000, 127), (0x2000, 3), (0x2000, 4), (0x3000, 254)],
      let s := host (.read (p.1 + 4 * p.2) 4)
      s.cfg.wf = true ∧ s.host.pending = [.read (s.cfg.base + (p.1 + 4 * p.2)) 4, .hwReset] ∧
      255 < s.cfg.lineCap ∧ 127 < s.cfg.recWords ∧ 254 < s.cfg.capChars ∧ s.c0.buf.length = 4 := by
  decide +kernel

/-- Each operand register, the last elements, and the ends of the read-only words. -/
theorem witness_HostWritesEveryWord :
    ∀ off ∈ [0x0004, 0x0008, 0x000C, 0x1000 + 4 * 255, 0x4000 + 4 * 127, 0x0010, 0x0058, 0x2000, 0x3000 + 4 * 254],
      let s := host (.write off 4 0xFFFFFFFF#32)
      s.cfg.wf = true ∧ s.host.pending = [.write (s.cfg.base + off) 4 0xFFFFFFFF#32, .hwReset] ∧
      255 < s.cfg.lineCap ∧ 127 < s.cfg.recWords ∧ 254 < s.cfg.capChars := by
  decide +kernel

/-- Another width; an offset that is no multiple of 4; holes about the registers and the windows. -/
theorem witness_OtherAccessesHaveNoStep :
    (step (host (.read 0x20 2)) = .fault .accessWidth) ∧ (step (host (.write 0x21 4 0#32)) = .fault .accessMisaligned) ∧
    (∀ addr ∈ [0x0038, 0x005C, 0x0FFC, 0x1400, 0x23FC, 0x33FC, 0x4200, 0x10000],
      nextOf (step (host (.read addr 4))) = none) ∧
    (step { host (.read 0 4) with cfg := { Config.default with base := 4 } } = .fault .accessUnmapped) :=
  ⟨rfl, rfl, by decide +kernel, rfl⟩

theorem witness_ConfigurationIsCheckedAndFixed :
    ({ Config.default with recWords := 63 }).wf = false ∧ State.reset.cfg.wf = true ∧ State.reset.host.pending = [] ∧
    (nextOf (step (host .hwReset))).isSome = true := by
  decide +kernel

theorem witness_EveryStepKeepsTheInvariant :
    busy.Inv ∧ ∃ t, step { busy with host := { busy.host with pending := [.write 0 4 0x13000001#32] } } = .next t :=
  ⟨⟨busy_c0_sound, empty_sound, ⟨fun _ => rfl, fun h => by cases h⟩, ⟨fun _ => by decide, fun h => by cases h⟩,
    ⟨by decide, by decide +kernel⟩, MemorySound.nil _⟩, _, rfl⟩

theorem witness_BothResetsLeaveTheResetValues :
    ∀ e ∈ [Event.hwReset, .write 0 4 0x01000000#32],
      let s := next e faulted
      s.cfg.wf = true ∧ (s.host.pending = [.hwReset] ∨ s.host.pending = [.write s.cfg.base 4 0x01000000#32]) := by
  decide +kernel

theorem witness_live_and_faulted : busy.status.fault = false ∧ faulted.status.fault = true := ⟨rfl, rfl⟩

/-- A range that fits, one that ends at LINE_CAP, one past it; a buffer that is full. -/
theorem witness_BcAppendStoresWhatFits :
    busy.status.fault = false ∧ busy.c0.buf.length ≤ busy.cfg.capChars ∧
    busy.argA.toNat + busy.argB.toNat ≤ busy.cfg.lineCap ∧
    (withArgs 256#32 0#32).argA.toNat + (withArgs 256#32 0#32).argB.toNat ≤ Config.default.lineCap ∧
    Config.default.lineCap < (withArgs 250#32 7#32).argA.toNat + (withArgs 250#32 7#32).argB.toNat ∧
    (withC0 (List.replicate 255 0x30#8)).c0.buf.length ≤ Config.default.capChars := by
  decide +kernel

/-- Both ends of the width, and a stream shorter than 32 bits. -/
theorem witness_BcFetchReturnsTheNextStreamBits :
    busy.status.fault = false ∧ (1#6).toNat = 1 ∧ (32#6).toNat = 32 ∧ busy.c0.Sound busy.cfg.capChars ∧
    ∃ bs, busy.c0.bits = some bs ∧ bs.length = 17 :=
  ⟨rfl, rfl, rfl, busy_c0_sound, _, rfl, by decide⟩

/-- A cursor with an invalid character, and an underrun. -/
theorem witness_BcFetchCompletesOnEveryCursor :
    (withC0 (ascii ['X'])).status.fault = false ∧ (withC0 (ascii ['X'])).c0.Sound Config.default.capChars ∧
    (armor6 0x58#8).isNone = true ∧ (6 : Nat) < (32#6).toNat :=
  ⟨rfl, ⟨by decide, by decide, by decide, by decide⟩, by decide, by decide⟩

/-- Both ends of the width, and a cursor with an invalid character. -/
theorem witness_BcFetchsIsBcFetchSigned :
    busy.status.fault = false ∧ (1#6).toNat = 1 ∧ (32#6).toNat = 32 ∧ busy.c0.Sound busy.cfg.capChars ∧
    (withC0 (ascii ['X'])).status.fault = false ∧ (withC0 (ascii ['X'])).c0.Sound Config.default.capChars :=
  ⟨rfl, rfl, rfl, busy_c0_sound, rfl, ⟨by decide, by decide, by decide, by decide⟩⟩

/-- 0, 33 and 63. -/
theorem witness_IllegalFetchWidthFaults :
    busy.status.fault = false ∧ ∀ n ∈ [0#6, 33#6, 63#6], n.toNat = 0 ∨ 32 < n.toNat := by
  decide

theorem witness_BcSnapshotCopiesTheMainCursor :
    busy.status.fault = false ∧ (left .bcSnapshot busy id).isSome = true ∧
    ((left .bcSnapshot busy id).bind (fun t => left .dispatch t id)).isSome = true := by
  decide +kernel

/-- Widths 4, 3, 1, 8, 6, 2 of L1-1. -/
theorem witness_FetchedBitsGiveTheCharactersBack :
    let f : FetchSt := { cur := { busy.c0 with pos := 0, rem := 0#6, remBits := 0#3 }, draws := 0, badchar := false }
    f.cur.pos = 0 ∧ f.cur.rem = 0#6 ∧ f.cur.remBits = 0#3 ∧ (∀ ch ∈ f.cur.buf, (armor6 ch).isSome = true) ∧
    (∀ w ∈ [4, 3, 1, 8, 6, 2], 1 ≤ w ∧ w ≤ 32) ∧ [4, 3, 1, 8, 6, 2].sum = 6 * 4 ∧ 4 ≤ f.cur.buf.length := by
  decide

theorem witness_CursorCommandsTouchOnlyTheirCursor :
    (left (.bcAppend .c1) busy id).isSome = true ∧ (left (.bcFetchs .c0 9#6) busy id).isSome = true ∧
    (left .bcSnapshot busy id).isSome = true := by
  decide +kernel

/-- `x!AIVDM,1,1,,A,55,0*` and its checksum in lower case, with CR LF after it. -/
theorem witness_FramerAcceptsTheWireFormat :
    let f0 := ascii ['A', 'I', 'V', 'D', 'M']
    let body := f0 ++ ascii [',', '1', ',', '1', ',', ',', 'A', ',', '5', '5', ',', '0']
    (∀ b ∈ ascii ['x'], b ≠ 0x21#8 ∧ b ≠ 0x24#8) ∧
    (∀ b ∈ f0 ++ ascii ['1', '1', 'A', '5', '5'], b ≠ 0x2C#8 ∧ b ≠ 0x2A#8) ∧
    (∀ b ∈ ascii [',', '0'], b ≠ 0x2A#8) ∧
    uint (ascii ['1']) = some 1#32 ∧ uint [] = some 0#32 ∧
    hexVal 0x32#8 = some 2 ∧ hexVal 0x36#8 = some 6 ∧ (xorBytes body).toNat = 16 * 2 + 6 := by
  decide +kernel

/-- `AIVDM,2,1,4294967296,B,55,0`: a seq field one too large. -/
def bodySeq : List Byte :=
  ascii ['A', 'I', 'V', 'D', 'M'] ++ [0x2C#8] ++ ascii ['2'] ++ [0x2C#8] ++ ascii ['1'] ++ [0x2C#8] ++
    ascii ['4', '2', '9', '4', '9', '6', '7', '2', '9', '6'] ++ [0x2C#8] ++ ascii ['B', ',', '5', '5', ',', '0']

/-- A line of another type; one without '*'; one with a wrong checksum; one with too few fields; one with a seq of 2^32. -/
theorem witness_FramerRejectsInOrder :
    (∀ b ∈ ascii ['x'], b ≠ 0x21#8 ∧ b ≠ 0x24#8) ∧
    (frame (ascii ['x', '!', 'G', 'P', 'G', 'G', 'A'])).toOption = none ∧
    (∀ b ∈ ascii ['A', 'I', 'V', 'D', 'O', ','], b ≠ 0x2A#8) ∧
    ([0x32#8, 0x38#8][0]?.bind hexVal = some 2 ∧ [0x32#8, 0x38#8][1]?.bind hexVal = some 8 ∧
      (xorBytes (ascii ['A', 'I', 'V', 'D', 'M'])).toNat ≠ 16 * 2 + 8) ∧
    (xorBytes (ascii ['A', 'I', 'V', 'D', 'M', ',', '1', ',', '1', ',', ',', 'B'])).toNat = 16 * 1 + 5 ∧
    (ascii ['A', 'I', 'V', 'D', 'M', ',', '1', ',', '1', ',', ',', 'B']).count 0x2C#8 = 4 ∧
    (uint (ascii ['4', '2', '9', '4', '9', '6', '7', '2', '9', '6']) = none ∧ bodySeq.count 0x2C#8 = 6 ∧
      (xorBytes bodySeq).toNat = 16 * 2 + 8 ∧
      frame ([0x21#8] ++ bodySeq ++ [0x2A#8, 0x32#8, 0x38#8]) = .error .fieldErr) := by
  decide +kernel

/-- 2^32 - 1 and 2^32. -/
theorem witness_UnsignedFieldsAreDecimal :
    uint (ascii ['0', '4', '2', '9', '4', '9', '6', '7', '2', '9', '5']) = some 0xFFFFFFFF#32 ∧
    uint (ascii ['4', '2', '9', '4', '9', '6', '7', '2', '9', '6']) = none ∧ uint (ascii ['1', '-']) = none := by
  decide +kernel

/-- LINE_LEN at LINE_CAP and past it. -/
theorem witness_FeedWritesOneOfItsCodes :
    ({ State.reset with lineLen := 256#32 }).lineLen.toNat ≤ Config.default.lineCap ∧
    Config.default.lineCap < ({ State.reset with lineLen := 257#32 }).lineLen.toNat := by
  decide

theorem witness_FramingResultsChangeOnlyLast :
    busy.status.fault = false ∧ busy.lineLen.toNat ≤ busy.cfg.lineCap ∧
    frame ((List.range busy.lineLen.toNat).map busy.lineByte) = .error .notAis := by
  decide +kernel

theorem witness_FirstFragmentStartsAReassembly :
    idle.status.fault = false ∧ idle.lineLen.toNat ≤ idle.cfg.lineCap ∧
    frame ((List.range idle.lineLen.toNat).map idle.lineByte) = .ok fragment1 ∧ idle.rs.inProgress = false ∧
    fragment1.idx = 1#32 := by
  decide +kernel

/-- F2 while idle, and F1 again in progress. -/
theorem witness_FragmentsOutOfSequenceAreDropped :
    let a := withLine lineF2 State.reset
    let b := withLine lineF1 midway
    (a.status.fault = false ∧ a.lineLen.toNat ≤ a.cfg.lineCap ∧
      frame ((List.range a.lineLen.toNat).map a.lineByte) = .ok fragment2 ∧ a.rs.inProgress = false ∧
      fragment2.idx ≠ 1#32) ∧
    (b.status.fault = false ∧ b.lineLen.toNat ≤ b.cfg.lineCap ∧
      frame ((List.range b.lineLen.toNat).map b.lineByte) = .ok fragment1 ∧ b.rs.inProgress = true ∧
      fragment1.idx.toNat ≠ b.rs.lastIdx.toNat + 1) := by
  decide +kernel

theorem witness_MatchingFragmentContinuesTheReassembly :
    midway.status.fault = false ∧ midway.lineLen.toNat ≤ midway.cfg.lineCap ∧
    midway.c0.buf.length ≤ midway.cfg.capChars ∧
    frame ((List.range midway.lineLen.toNat).map midway.lineByte) = .ok fragment2 ∧ midway.rs.inProgress = true ∧
    fragment2.total = midway.rs.total ∧ fragment2.seq = midway.rs.seq ∧ fragment2.chan = midway.rs.chan ∧
    fragment2.idx.toNat = midway.rs.lastIdx.toNat + 1 := by
  decide +kernel

/-- F1 then F2. -/
def chainBefore : Nat → State
  | 0 => idle
  | _ => midway

def chainAfter (k : Nat) : State := goOn (exec .feed (chainBefore k))

theorem witness_ChainedFragmentsCompleteOnce :
    let fs := [fragment1, fragment2]
    1 ≤ fs.length ∧ fs.length < 2 ^ 32 ∧
    (∀ k (h : k < fs.length), fs[k].idx.toNat = k + 1 ∧ fs[k].total.toNat = fs.length ∧ fs[k].seq = 3#32 ∧
      fs[k].chan = 0x42#8) ∧
    (chainBefore 0).rs.inProgress = false ∧ (chainBefore 0).status.fault = false ∧
    (∀ k (h : k < fs.length), (chainBefore k).lineLen.toNat ≤ (chainBefore k).cfg.lineCap ∧
      frame ((List.range (chainBefore k).lineLen.toNat).map (chainBefore k).lineByte) = .ok fs[k] ∧
      nextOf (exec .feed (chainBefore k)) = some (chainAfter k)) ∧
    chainBefore 1 = { chainAfter 0 with
      lineMem := (chainBefore 1).lineMem, lineLen := (chainBefore 1).lineLen, host := (chainBefore 1).host } := by
  refine ⟨by decide, by decide, by decide, rfl, rfl, by decide +kernel, rfl⟩

theorem witness_DispatchClassifiesTheNextSixBits :
    busy.status.fault = false ∧ busy.c0.Sound busy.cfg.capChars ∧ ∃ bs, busy.c0.bits = some bs :=
  ⟨rfl, busy_c0_sound, _, rfl⟩

theorem witness_DispatchAndDecodeAgreeOnTheTag :
    let s := withC0 payload1
    s.status.fault = false ∧ s.c0.pos = 0 ∧ s.c0.rem = 0#6 ∧ s.c0.remBits = 0#3 ∧
    (∀ ch ∈ s.c0.buf.head?, (armor6 ch).isSome = true) ∧
    ((left .dispatch s id).bind (fun t => left .decode t id)).isSome = true := by
  decide +kernel

/-- A configuration with a layout of tag 2 that takes 12 to 18 bits. -/
def ranged : Config := adding 2 ⟨.range 12 18, true, descs [.u 6 1]⟩

/-- An empty C0; an unknown tag; a known one without a layout; a payload that is too short; one that starts with an
invalid character; payloads on both sides of a RANGE. -/
theorem witness_DecodeStopsBeforeTheRecord :
    State.reset.c0.buf = [] ∧ 0 ∉ Config.default.knownTags ∧
    (armor6 0x72#8 = some 58#6 ∧ 58 ∉ Config.default.knownTags) ∧
    (armor6 0x32#8 = some 2#6 ∧ 2 ∈ Config.default.knownTags ∧ Config.default.layouts.lookup 2 = none) ∧
    (armor6 0x31#8 = some 1#6 ∧ 1 ∈ Config.default.knownTags ∧ Config.default.layouts.lookup 1 = some layout1 ∧
      6 * (payload1.take 27).length ≠ 168) ∧
    ((withC0 (ascii ['X'])).status.fault = false ∧ (armor6 0x58#8).isNone = true) ∧
    (ranged.wf = true ∧ 2 ∈ ranged.knownTags ∧ (ranged.layouts.lookup 2).map Layout.len = some (.range 12 18) ∧
      ∀ text ∈ [ascii ['2'], ascii ['2', '0', '0', '0']],
        let s : State := { withC0 text with cfg := ranged }
        (6 * s.c0.buf.length < 12 ∨ 18 < 6 * s.c0.buf.length) ∧
          left .decode s (fun t => t.status.last) = some 8#4) := by
  decide +kernel

theorem witness_DecodeFillsThePositionReport :
    1 ∈ Config.default.knownTags ∧ Config.default.layouts.lookup 1 = some layout1 ∧ 18 ≤ Config.default.recWords ∧
    (charsBits (withC0 payload1).c0.buf).map (fun bs => (bs.length, numberOf (bs.take 6))) = some (168, 1) := by
  decide +kernel

theorem witness_DecodeFillsTheStaticReport :
    5 ∈ Config.default.knownTags ∧ Config.default.layouts.lookup 5 = some layout5 ∧ 62 ≤ Config.default.recWords ∧
    (charsBits (withC0 payload5).c0.buf).map (fun bs => (bs.length, numberOf (bs.take 6))) = some (426, 5) := by
  decide +kernel

/-- A layout of tag 6: the repeat field, then the rest. -/
def layout6 : Layout := short true [.u 2 1, .residual 2]

/-- "65", tag 6. -/
def application : State := { withC0 (ascii ['6', '5']) with cfg := adding 6 layout6 }

theorem witness_ResidualHandsTheRestToC1 :
    application.cfg.wf = true ∧
    left .decode application (fun t => (t.status.last, t.cfg.layouts.lookup t.tag.toNat, t.recWord 2, t.c1.pos)) =
      some (0#4, some layout6, 4#32, 2) ∧
    layout6.descs.toList.getLast? = some (.residual 2) ∧ 2 < application.cfg.recWords := by
  decide +kernel

/-- 17 bits left, sub-records of 5 bits in two fields: the loop stops at `max`, or where fewer than 5 are left; the count
slot lies before the passes' slots or right after them. -/
theorem witness_RepeatReadsWhatFits :
    let fields := [(2, 1), (3, 2)]
    let sub := descs (fields.map (fun f => .u f.1 f.2))
    busy.c0.Sound busy.cfg.capChars ∧ sub.width? = some 5 ∧ sub.paramsOk = true ∧ 10 + 0 < busy.cfg.recWords ∧
    (fields.map Prod.snd).Nodup ∧ (∀ f ∈ fields, 1 ≤ f.2 ∧ f.2 < 1 + 2) ∧ (0 < 1 ∨ 1 + 9 * 2 ≤ 0) ∧
    (19 < 1 ∨ 1 + 9 * 2 ≤ 19) ∧ (∃ bs, busy.c0.bits = some bs) ∧
    (runDesc (.rept 0 2 sub 2) 10 busy).recWord 10 = 2#32 ∧ (runDesc (.rept 19 9 sub 2) 10 busy).recWord 29 = 3#32 :=
  ⟨busy_c0_sound, by decide, by decide, by decide, by decide, by decide, by decide, by decide, ⟨_, rfl⟩,
    by decide +kernel, by decide +kernel⟩

/-- A type 24 payload: "H" and part 0, 1 or 2, with the flags of the other half in slot 4. -/
def part (ch : Char) : State :=
  { withC0 (ascii ['H', ch]) with cfg := adding 24 layout24, recMem := [(4, 2#32)] }

theorem witness_Type24FlagsAccumulate :
    (part '5').cfg.wf = true ∧ 4 ∉ (descs [.u 2 1]).slots 0 ∧ 1 ∉ (descs [.u 4 2]).slots 0 ∧
    left .decode (part '5') (fun t => (t.tag, t.status.last, t.recWord 1, t.recWord 4)) =
      some (24#6, 0#4, 0#32, 3#32) ∧
    left .decode (part 'E') (fun t => (t.tag, t.status.last, t.recWord 1, t.recWord 4)) =
      some (24#6, 0#4, 1#32, 2#32) ∧
    left .decode (part 'U') (fun t => (t.tag, t.status.last, t.recWord 1, t.recWord 4)) =
      some (24#6, 0#4, 2#32, 2#32) := by
  decide +kernel

/-- Layouts that zero-fill (127 is unwritten) and that do not (9 is), one with RESIDUAL and one without, one by EXACT and
one at each end of a RANGE, one whose C0 is empty; a configuration with a layout for each of its tags. -/
theorem witness_DecodeWritesOnlyTheLayoutsSlots :
    let kept : State := { part '5' with recMem := [(4, 2#32), (9, 7#32)] }
    let empty : State :=
      { State.reset with cfg := { Config.default with knownTags := [0], layouts := [(0, ⟨.exact 0, true, .nil⟩)] } }
    (left .decode (withC0 payload1) (fun t => (t.status.last, t.cfg.layouts.lookup t.tag.toNat, t.recWord 127)) =
        some (0#4, some layout1, 0#32) ∧
      127 ∉ layout1.descs.slots 0 ∧ layout1.descs.anyKind Desc.isResidual = false) ∧
    (left .decode kept (fun t => (t.status.last, t.cfg.layouts.lookup t.tag.toNat, t.recWord 9)) =
        some (0#4, some layout24, 7#32) ∧
      layout24.zeroFill = false ∧ 9 ∉ layout24.descs.slots 0) ∧
    (application.c0.buf.head? = some 0x36#8 ∧ armor6 0x36#8 = some 6#6 ∧
      application.cfg.layouts.lookup 6 = some layout6 ∧ 6 * application.c0.buf.length = 12) ∧
    (∀ text ∈ [ascii ['2', '0'], ascii ['2', '0', '0']],
      left .decode { withC0 text with cfg := ranged } (fun t => (t.status.last, t.tag)) = some (0#4, 2#6)) ∧
    (empty.cfg.wf = true ∧ empty.c0.buf = [] ∧ left .decode empty (fun t => t.status.last) = some 0#4 ∧
      ∀ tag ∈ empty.cfg.knownTags, (empty.cfg.layouts.lookup tag).isSome = true) := by
  decide +kernel

/-- Masks at both ends of the word, values at both ends of the field; no mask, two bits, a wide value. -/
theorem witness_SignrecReadsTwosComplement :
    ((1#32).toNat = 2 ^ 0 ∧ (1#32).toNat < 2 ^ (0 + 1)) ∧
    ((0x80000000#32).toNat = 2 ^ 31 ∧ (0xFFFFFFFF#32).toNat < 2 ^ (31 + 1)) ∧
    (∀ k, k < 32 → (0#32).toNat ≠ 2 ^ k) ∧ (∀ k, k < 32 → (3#32).toNat ≠ 2 ^ k) ∧
    2 * (0x20#32).toNat ≤ (0x40#32).toNat := by
  decide

/-- The widest operands that fit, and the next. -/
theorem witness_PositionRecoveryOfBothWidths :
    (0x7FFFFFF#32).toNat < 2 ^ 27 ∧ (0xFFFFFFF#32).toNat < 2 ^ 28 ∧ 2 ^ 27 ≤ (0x8000000#32).toNat ∧
    2 ^ 28 ≤ (0x10000000#32).toNat ∧ (0x1FFFF#32).toNat < 2 ^ 17 ∧ (0x3FFFF#32).toNat < 2 ^ 18 ∧
    2 ^ 17 ≤ (0x20000#32).toNat ∧ 2 ^ 18 ≤ (0x40000#32).toNat := by
  decide

theorem witness_OnlySomeCommandsWriteTheResultRegisters :
    (left .degmin busy id).isSome = true ∧ (left .deg busy id).isSome = true ∧
    (left (.bcAppend .c0) busy id).isSome = true := by
  decide +kernel

theorem witness_EachStateElementHasItsWriters :
    (left .feed busy id).isSome = true ∧ (left .decode busy id).isSome = true ∧ (left .signrec busy id).isSome = true := by
  decide +kernel

theorem witness_EachCommandHasItsResultCodes :
    busy.status.fault = false ∧ (left .feed busy id).isSome = true ∧
    (left .signrec busy (fun t => t.status.fault)) = some false ∧
    (left .signrec (withArgs 5#32 3#32) (fun t => t.status.fault)) = some true := by
  decide +kernel

theorem witness_StickyFlagsStaySet :
    (left .nop busy id).isSome = true ∧ busy.status.badchar = true ∧ busy.status.overflow = true := by
  decide +kernel

theorem witness_LdlineLoadsTheLine :
    (asmLdline Config.default (ascii ['1', '9'])).isSome = true ∧
    (asmLdline Config.default (ascii ['1', '9'])) =
      some [.write 0x1000 4 0x31#32, .write 0x1004 4 0x39#32, .write 0x000C 4 2#32] ∧
    (asmLdline Config.default (List.replicate 256 0x30#8)).isSome = true := by
  decide +kernel

/-- 17 bits left: widths at both ends of U, a field past the end, slots up to the last of REC, a SKIP above 32. -/
theorem witness_DescriptorsStoreWhatTheirKindSays :
    busy.c0.Sound busy.cfg.capChars ∧ (∃ bs, busy.c0.bits = some bs ∧ bs.length = 17) ∧ 120 + 7 < busy.cfg.recWords ∧
    120 + 7 + 1 ≤ busy.cfg.recWords ∧
    (runDesc (.u 1 7) 120 busy).recWord 127 = 0#32 ∧ (runDesc (.u 32 7) 120 busy).recWord 127 = 0x4BD18000#32 ∧
    place (runDesc (.skip 40) 0 busy).c0 = (4, 0, 0) :=
  ⟨busy_c0_sound, ⟨_, rfl, by decide⟩, by decide, by decide, by decide +kernel, by decide +kernel, by decide +kernel⟩

end Sys2Proof.Tests
end

section
/-! SUPPORT. The bit cursor's statements (spec/40_bitcursor.md): what each command of the family leaves in a live block,
what an illegal fetch word is, and which commands leave the sub-cursor alone. -/

namespace Sys2Proof.Machine

/-! ### Partial correctness of a rule -/

/-- Every next state of the outcome satisfies `p`; a fault or a refusal of the model leaves none. -/
def Leaves (r : Result) (p : State → Prop) : Prop := ∀ t, r = .next t → p t

@[simp] theorem leaves_next_iff {s : State} {p : State → Prop} : Leaves (.next s) p ↔ p s := by
  simp [Leaves]

@[simp] theorem leaves_completes_iff {s : State} {r : ResultCode} {p : State → Prop} :
    Leaves (completes s r) p ↔ p (s.setLast r) := leaves_next_iff

@[simp] theorem leaves_raises_iff {s : State} {k : FaultCause} {p : State → Prop} :
    Leaves (raises s k) p ↔ p (s.raiseFault k) := leaves_next_iff

/-- A gated rule leaves `p` where the state it found has it and the rule leaves it (R209). -/
theorem leaves_whenLive {s : State} {r : Result} {p : State → Prop} (hs : p s) (hr : Leaves r p) :
    Leaves (whenLive s r) p := by
  intro t h
  obtain ⟨-, rfl⟩ | ⟨-, h⟩ := whenLive_next h
  · exact hs
  · exact hr t h

/-! ### The cursor commands of a live block -/

/-- Writing STATUS and then a cursor is `setLast` after the cursor is written. -/
theorem State.setCursor_setLast (s : State) (c : CursorSel) (x : Cursor) (r : ResultCode) :
    (s.setCursor c x).setLast r = { s with status := { s.status with last := r.code } }.setCursor c x := by
  cases c <;> rfl

@[simp] theorem Cursor.rewind_rewind (x : Cursor) : x.rewind.rewind = x.rewind := rfl

@[simp] theorem State.length_lineRange (s : State) (start count : Nat) : (s.lineRange start count).length = count := by
  simp [State.lineRange]

section Live
variable {s : State} (h : s.status.fault = false)
include h

theorem exec_bcInit_live (c : CursorSel) :
    exec (.bcInit c) s = completes (s.setCursor c (s.cursor c).rewind) .ok := whenLive_live h _

theorem exec_bcClear_live (c : CursorSel) : exec (.bcClear c) s = completes (s.setCursor c Cursor.empty) .ok :=
  whenLive_live h _

theorem exec_bcLength_live (c : CursorSel) :
    exec (.bcLength c) s = completes (s.setY0 (zext64 (s.cursor c).length)) .ok :=
  whenLive_live h _

theorem exec_bcSnapshot_live : exec .bcSnapshot s = completes s.snapshot .ok := whenLive_live h _

theorem exec_bcAppend_outside (c : CursorSel) (hout : s.cfg.lineCap < s.argA.toNat + s.argB.toNat) :
    exec (.bcAppend c) s = raises s .badOperand :=
  (whenLive_live h _).trans (if_pos hout)

/-- BC_APPEND of a range inside LINE, through the law of `appendAll` (R105, R106). -/
theorem exec_bcAppend_inside (c : CursorSel) (hin : s.argA.toNat + s.argB.toNat ≤ s.cfg.lineCap)
    (hcap : (s.cursor c).bufLen ≤ s.cfg.capChars) :
    exec (.bcAppend c) s = completes
      ((s.setCursor c { s.cursor c with
          buf := ((s.cursor c).buf ++ s.lineRange s.argA.toNat s.argB.toNat).take s.cfg.capChars }).setOverflow
        (s.status.overflow || decide (s.cfg.capChars < (s.cursor c).bufLen + s.argB.toNat))) .ok :=
  calc exec (.bcAppend c) s
    _ = completes (s.appendAll c (s.lineRange s.argA.toNat s.argB.toNat)) .ok :=
        (whenLive_live h _).trans (if_neg (Nat.not_lt.mpr hin))
    _ = _ := by rw [State.appendAll_spec s c _ hcap, State.length_lineRange]

theorem exec_bcFetch_badWidth (c : CursorSel) {n : Sextet} (hn : widthOk n = false) :
    exec (.bcFetch c n) s = raises s .badWidth :=
  (whenLive_live h _).trans (if_neg (by simp [hn]))

theorem exec_bcFetchs_badWidth (c : CursorSel) {n : Sextet} (hn : widthOk n = false) :
    exec (.bcFetchs c n) s = raises s .badWidth :=
  (whenLive_live h _).trans (if_neg (by simp [hn]))

end Live

/-- A BC_INIT of the state a BC_INIT left changes nothing (R119). -/
theorem exec_bcInit_idempotent {s t : State} (h : s.status.fault = false) (c : CursorSel)
    (ht : exec (.bcInit c) s = .next t) : exec (.bcInit c) t = .next t := by
  rw [exec_bcInit_live h] at ht
  injection ht with ht
  subst ht
  rw [exec_bcInit_live (by simpa using h)]
  cases c <;> rfl

/-! ### Command words with a width field (spec/30_encoding.md R54, R55, R57) -/

theorem widthOk_eq_false_iff (n : Sextet) : widthOk n = false ↔ n.toNat = 0 ∨ 32 < n.toNat := by
  simp [widthOk]; omega

@[simp] theorem fieldOpc_wordCN (opc : BitVec 8) (c : CursorSel) (n : Sextet) : fieldOpc (wordCN opc c n) = opc := by
  change (opc ++ 0#7 ++ c.bit ++ 0#10 ++ n).extractLsb' 24 8 = opc
  repeat rw [BitVec.extractLsb'_append_eq_of_le (by decide)]
  simp

@[simp] theorem fieldN_wordCN (opc : BitVec 8) (c : CursorSel) (n : Sextet) : fieldN (wordCN opc c n) = n :=
  BitVec.extractLsb'_append_eq_right

/-- No reserved bit of format CN is set (R55). -/
@[simp] theorem wordCN_and_rsvMask (opc : BitVec 8) (c : CursorSel) (n : Sextet) :
    wordCN opc c n &&& rsvMask .cn = 0#32 :=
  calc (opc ++ 0#7 ++ c.bit ++ 0#10 ++ n) &&& (0#8 ++ 0x7F#7 ++ 0#1 ++ 0x3FF#10 ++ 0#6)
    _ = 0#8 ++ 0#7 ++ 0#1 ++ 0#10 ++ 0#6 := by simp only [BitVec.and_append, BitVec.and_zero, BitVec.zero_and]

/-- The N field put into the low bits of a word without one (R54). -/
theorem wordCN_or_setWidth (opc : BitVec 8) (c : CursorSel) (n : Sextet) :
    wordCN opc c 0#6 ||| n.setWidth 32 = wordCN opc c n := by
  rw [BitVec.setWidth_eq_append (by decide)]
  change ((opc ++ 0#7 ++ c.bit ++ 0#10) ++ 0#6) ||| (0#26 ++ n) = (opc ++ 0#7 ++ c.bit ++ 0#10) ++ n
  rw [BitVec.or_append, BitVec.or_zero, BitVec.zero_or]

/-- A word of format CN with a width that is not 1 to 32 is no command (R57). -/
theorem decode_wordCN_badWidth {opc : BitVec 8} {r : OpRow} (hr : opRow opc = some r) (hf : r.format = .cn)
    (c : CursorSel) {n : Sextet} (hn : widthOk n = false) : decode (wordCN opc c n) = .error .badWidth := by
  simp [decode, hr, hf, hn]

/-- The words of BC_FETCH and BC_FETCHS with an illegal width (R108). -/
theorem decode_fetch_word_badWidth {w : Word} {n : Sextet} (hn : widthOk n = false)
    (hw : w ∈ [0x13000000#32 ||| n.setWidth 32, 0x13010000#32 ||| n.setWidth 32, 0x14000000#32 ||| n.setWidth 32,
      0x14010000#32 ||| n.setWidth 32]) : decode w = .error .badWidth := by
  simp only [List.mem_cons, List.not_mem_nil, or_false] at hw
  obtain rfl | rfl | rfl | rfl := hw
  · exact (congrArg decode (wordCN_or_setWidth 0x13#8 .c0 n)).trans (decode_wordCN_badWidth rfl rfl .c0 hn)
  · exact (congrArg decode (wordCN_or_setWidth 0x13#8 .c1 n)).trans (decode_wordCN_badWidth rfl rfl .c1 hn)
  · exact (congrArg decode (wordCN_or_setWidth 0x14#8 .c0 n)).trans (decode_wordCN_badWidth rfl rfl .c0 hn)
  · exact (congrArg decode (wordCN_or_setWidth 0x14#8 .c1 n)).trans (decode_wordCN_badWidth rfl rfl .c1 hn)

/-! ### A write to CMD (spec/20_memory.md R39, spec/30_encoding.md R57) -/

theorem locate_base (c : Config) : locate c c.base 4 = .ok .cmd := by
  simp [locate, portAt, registerPorts, Port.offset]

theorem step_write_cmd {s : State} {w : Word} {rest : List Event} (hwf : s.cfg.wf = true)
    (hp : s.host.pending = .write s.cfg.base 4 w :: rest) : step s = issue w (s.popped rest).advance := by
  simp [step, hwf, runNext, hp, perform, locate_base]

theorem issue_illegal {s : State} {w : Word} {e : DecodeError} (h : s.status.fault = false) (hw : decode w = .error e) :
    issue w s = raises s (causeOf e) := by
  simp [issue, hw, h]

/-! ### Commands that leave the sub-cursor alone (spec/40_bitcursor.md R117) -/

theorem State.appendAll_c0_c1 (s : State) (bs : List Byte) : (s.appendAll .c0 bs).c1 = s.c1 := by
  rw [(s.appendAll_frame .c0 bs).rest]; rfl

theorem State.accept_c1 (s : State) (f : Fragment) : (s.accept f).c1 = s.c1 := by
  obtain ⟨-, h⟩ | ⟨-, -, h⟩ := s.accept_cases f <;> rw [h] <;> exact s.appendAll_c0_c1 f.payload

theorem State.reassemble_c1 (s : State) (f : Fragment) : (s.reassemble f).c1 = s.c1 := by
  obtain ⟨-, -, h⟩ | ⟨-, -, h⟩ | ⟨-, -, h⟩ | ⟨-, -, h⟩ := s.reassemble_cases f <;> rw [h]
  case inl => rfl
  case inr.inl => exact s.accept_c1 f
  case inr.inr.inl => rfl
  case inr.inr.inr => exact State.accept_c1 _ f

theorem State.readTag_c1 (s : State) : s.readTag.2.c1 = s.c1 := (s.fetch_frame .c0 6).other

/-- FEED stops at the length check, at a framing error, or runs the reassembler (spec/41_reassembler.md R124). -/
theorem execFeed_keeps_c1 (s : State) : Leaves (execFeed s) (fun t => t.c1 = s.c1) := by
  refine leaves_whenLive rfl ?_
  split
  · exact leaves_raises_iff.mpr rfl
  · split
    · exact leaves_completes_iff.mpr rfl
    · exact leaves_next_iff.mpr (s.reassemble_c1 _)

theorem execBcAppend_c0_keeps_c1 (s : State) : Leaves (execBcAppend .c0 s) (fun t => t.c1 = s.c1) := by
  refine leaves_whenLive rfl ?_
  split
  · exact leaves_raises_iff.mpr rfl
  · exact leaves_completes_iff.mpr (s.appendAll_c0_c1 _)

/-- The commands named for C0, FEED, RS_RESET and DISPATCH do not write C1. -/
theorem exec_keeps_c1 {i : Instr} (hi : i ∈ [.bcInit .c0, .bcClear .c0, .bcAppend .c0, .feed, .rsReset, .dispatch])
    (s : State) : Leaves (exec i s) (fun t => t.c1 = s.c1) := by
  simp only [List.mem_cons, List.not_mem_nil, or_false] at hi
  obtain rfl | rfl | rfl | rfl | rfl | rfl := hi
  · exact leaves_whenLive rfl (leaves_completes_iff.mpr rfl)
  · exact leaves_whenLive rfl (leaves_completes_iff.mpr rfl)
  · exact execBcAppend_c0_keeps_c1 s
  · exact execFeed_keeps_c1 s
  · exact leaves_whenLive rfl (leaves_completes_iff.mpr rfl)
  · exact leaves_whenLive rfl (leaves_completes_iff.mpr s.readTag_c1)

/-! ### The armor table (spec/40_bitcursor.md R102) -/

theorem toNat_unarmor6 (v : Sextet) :
    (unarmor6 v).toNat = if v.toNat < 40 then v.toNat + 0x30 else v.toNat + 0x38 := by
  unfold unarmor6
  split <;> simp only [BitVec.toNat_ofNat] <;> omega

/-- `unarmor6` chooses the band `armor6` reads. -/
theorem armor6_unarmor6 (v : Sextet) : armor6 (unarmor6 v) = some v := by
  unfold armor6
  rw [toNat_unarmor6]
  by_cases hv : v.toNat < 40
  · rw [if_pos hv, if_pos (by omega), Nat.add_sub_cancel, BitVec.ofNat_toNat, BitVec.setWidth_eq]
  · rw [if_neg hv, if_neg (by omega), if_pos (by omega), Nat.add_sub_cancel, BitVec.ofNat_toNat, BitVec.setWidth_eq]

/-- Each band of characters is what `unarmor6` makes of the groups it holds. -/
theorem unarmor6_of_armor6 {c : Byte} {v : Sextet} (h : armor6 c = some v) : unarmor6 v = c := by
  apply BitVec.eq_of_toNat_eq
  rw [toNat_unarmor6]
  unfold armor6 at h
  split at h
  · cases h
    simp only [BitVec.toNat_ofNat]
    split <;> omega
  · split at h
    · cases h
      simp only [BitVec.toNat_ofNat]
      split <;> omega
    · cases h

/-! ### The obligations -/

/-- Settles O19: the law of `appendAll` where the range is inside LINE, a fault where it is not. -/
theorem bcAppendStoresWhatFits : Obligations.BcAppendStoresWhatFits := by
  intro s c hlive hcap
  refine ⟨by cases c <;> rfl, fun hin => ?_, exec_bcAppend_outside hlive c⟩
  rw [exec_bcAppend_inside hlive c hin hcap]
  cases c <;> rfl

/-- Settles O25: the copy is BC_SNAPSHOT's meaning, and none of the later commands writes C1. -/
theorem bcSnapshotCopiesTheMainCursor : Obligations.BcSnapshotCopiesTheMainCursor := by
  refine ⟨rfl, fun s hlive => ⟨exec_bcSnapshot_live hlive, fun i t u hi ht hu => ?_⟩⟩
  have htc : t.c1 = s.c0 := by
    rw [exec_bcSnapshot_live hlive] at ht
    injection ht with ht
    rw [← ht]; rfl
  exact (exec_keeps_c1 hi t u hu).trans htc

/-- Settles O18: both are the live block's meanings, and a rewound cursor rewinds to itself. -/
theorem bcInitRewindsAndBcClearEmpties : Obligations.BcInitRewindsAndBcClearEmpties := by
  intro s c hlive
  refine ⟨by cases c <;> rfl, by cases c <;> rfl, ?_, fun t => exec_bcInit_idempotent hlive c, ?_⟩
  · rw [exec_bcInit_live hlive, completes, State.setCursor_setLast]; rfl
  · rw [exec_bcClear_live hlive, completes, State.setCursor_setLast]; rfl

/-- Settles O23: the command is stopped by its own width check, the word by the decoder's. -/
theorem illegalFetchWidthFaults : Obligations.IllegalFetchWidthFaults := by
  intro s c n hlive hn
  have hn := (widthOk_eq_false_iff n).mpr hn
  refine ⟨exec_bcFetch_badWidth hlive c hn, exec_bcFetchs_badWidth hlive c hn, fun w rest hw hwf hp => ?_⟩
  rw [step_write_cmd hwf hp, issue_illegal (by simpa using hlive) (decode_fetch_word_badWidth hn hw)]
  rfl

/-- Settles O24: `Cursor.length` is the count the statement writes out. -/
theorem bcLengthCountsTheBitsLeft : Obligations.BcLengthCountsTheBitsLeft :=
  fun _ c hlive => ⟨by cases c <;> rfl, exec_bcLength_live hlive c⟩

/-- Settles O26: `unarmor6` is a two-sided inverse, and the bands are the table's definition. -/
theorem armorTableIsABijection : Obligations.ArmorTableIsABijection :=
  ⟨fun _ v => ⟨fun h => (unarmor6_of_armor6 h).symm, fun h => h ▸ armor6_unarmor6 v⟩, fun _ => rfl, toNat_unarmor6⟩

end Sys2Proof.Machine
end

section
/-! SUPPORT. The reassembler's statements (spec/41_reassembler.md): how FEED ends in a live block, what it can write, and
what each way through the reassembler leaves. -/

namespace Sys2Proof.Machine

/-! ### FEED and RS_RESET in a live block (R124, R143) -/

theorem State.lineRange_zero (s : State) (n : Nat) : s.lineRange 0 n = (List.range n).map s.lineByte := by
  simp [State.lineRange]

section Live
variable {s : State} (h : s.status.fault = false)
include h

theorem exec_rsReset_live : exec .rsReset s = completes (s.discard.setTag 0#6) .ok := whenLive_live h _

theorem exec_feed_badLineLen (hlen : s.cfg.lineCap < s.lineLen.toNat) : exec .feed s = raises s .badLineLen :=
  (whenLive_live h _).trans (if_pos hlen)

theorem exec_feed_framed (hlen : s.lineLen.toNat ≤ s.cfg.lineCap) :
    exec .feed s = match frame ((List.range s.lineLen.toNat).map s.lineByte) with
      | .error r => completes s r
      | .ok f => .next (s.reassemble f) := by
  rw [← State.lineRange_zero]
  exact (whenLive_live h _).trans (if_neg (Nat.not_lt.mpr hlen))

theorem exec_feed_error {r : ResultCode} (hlen : s.lineLen.toNat ≤ s.cfg.lineCap)
    (hf : frame ((List.range s.lineLen.toNat).map s.lineByte) = .error r) : exec .feed s = completes s r := by
  rw [exec_feed_framed h hlen, hf]

theorem exec_feed_ok {f : Fragment} (hlen : s.lineLen.toNat ≤ s.cfg.lineCap)
    (hf : frame ((List.range s.lineLen.toNat).map s.lineByte) = .ok f) : exec .feed s = .next (s.reassemble f) := by
  rw [exec_feed_framed h hlen, hf]

end Live

/-! ### What FEED can write (R122) -/

/-- The six codes of FEED. -/
def feedResults : List ResultCode := [.complete, .needMore, .checksumFail, .notAis, .fieldErr, .outOfSeq]

theorem code_of_mem_feedResults : ∀ r ∈ feedResults,
    r.code = 1#4 ∨ r.code = 2#4 ∨ r.code = 3#4 ∨ r.code = 4#4 ∨ r.code = 5#4 ∨ r.code = 6#4 := by
  decide

/-- `t` is `s` with C0, RS and OVERFLOW of its own and one of FEED's codes. -/
def FeedFrame (s t : State) : Prop :=
  ∃ r ∈ feedResults, t = (({ s with c0 := t.c0, rs := t.rs } : State).setOverflow t.status.overflow).setLast r

theorem FeedFrame.last {s t : State} (h : FeedFrame s t) :
    t.status.last = 1#4 ∨ t.status.last = 2#4 ∨ t.status.last = 3#4 ∨ t.status.last = 4#4 ∨ t.status.last = 5#4 ∨
      t.status.last = 6#4 := by
  obtain ⟨r, hr, ht⟩ := h
  have hlast : t.status.last = r.code := by rw [ht]; rfl
  rw [hlast]
  exact code_of_mem_feedResults r hr

theorem FeedFrame.rest {s t : State} (h : FeedFrame s t) :
    t = { s with
      c0 := t.c0, rs := t.rs
      status := { s.status with last := t.status.last, overflow := t.status.overflow } } := by
  obtain ⟨r, -, ht⟩ := h
  have hlast : t.status.last = r.code := by rw [ht]; rfl
  rw [hlast]
  exact ht

theorem State.setLast_feedFrame {r : ResultCode} (hr : r ∈ feedResults) (s : State) : FeedFrame s (s.setLast r) :=
  ⟨r, hr, rfl⟩

theorem State.accept_feedFrame (s : State) (f : Fragment) : FeedFrame s (s.accept f) := by
  have happend := (s.appendAll_frame .c0 f.payload).rest
  obtain ⟨-, h⟩ | ⟨-, -, h⟩ := s.accept_cases f
  · exact ⟨.complete, by decide, by rw [h, happend]; rfl⟩
  · exact ⟨.needMore, by decide, by rw [h, happend]; rfl⟩

/-- A mismatch and a stray fragment end in OUT_OF_SEQ; a continuation and a first fragment are accepted, the latter after
C0 and RS, which the frame leaves free, are written. -/
theorem State.reassemble_feedFrame (s : State) (f : Fragment) : FeedFrame s (s.reassemble f) := by
  obtain ⟨-, -, h⟩ | ⟨-, -, h⟩ | ⟨-, -, h⟩ | ⟨-, -, h⟩ := s.reassemble_cases f <;> rw [h]
  case inl => exact ⟨.outOfSeq, by decide, rfl⟩
  case inr.inl => exact s.accept_feedFrame f
  case inr.inr.inl => exact State.setLast_feedFrame (by decide) s
  case inr.inr.inr => exact State.accept_feedFrame _ f

theorem mem_feedResults_of_frame_error {l : List Byte} {r : ResultCode} (h : frame l = .error r) :
    r ∈ feedResults := by
  obtain rfl | rfl | rfl := frame_error h <;> decide

/-- FEED of a line that fits LINE completes, through the framer's error or the reassembler. -/
theorem exec_feed_feedFrame {s : State} (h : s.status.fault = false) (hlen : s.lineLen.toNat ≤ s.cfg.lineCap) :
    ∃ t, exec .feed s = .next t ∧ FeedFrame s t := by
  cases hf : frame ((List.range s.lineLen.toNat).map s.lineByte) with
  | error r => exact ⟨_, exec_feed_error h hlen hf, s.setLast_feedFrame (mem_feedResults_of_frame_error hf)⟩
  | ok f => exact ⟨_, exec_feed_ok h hlen hf, s.reassemble_feedFrame f⟩

/-! ### The ways through the reassembler (R133 to R142) -/

theorem Rs.continuedBy_iff (r : Rs) (f : Fragment) : r.continuedBy f = true ↔
    f.total = r.total ∧ f.seq = r.seq ∧ f.chan = r.chan ∧ f.idx.toNat = r.lastIdx.toNat + 1 := by
  simp [Rs.continuedBy, and_assoc]

theorem State.reassemble_mismatch {s : State} {f : Fragment} (hp : s.rs.inProgress = true)
    (hc : s.rs.continuedBy f = false) : s.reassemble f = s.discard.setLast .outOfSeq := by
  simpa [hp, hc] using s.reassemble_cases f

theorem State.reassemble_stray {s : State} {f : Fragment} (hp : s.rs.inProgress = false) (hi : f.idx ≠ 1#32) :
    s.reassemble f = s.setLast .outOfSeq := by
  simpa [hp, hi] using s.reassemble_cases f

theorem State.reassemble_first {s : State} {f : Fragment} (hp : s.rs.inProgress = false) (hi : f.idx = 1#32) :
    s.reassemble f = ((s.setCursor .c0 Cursor.empty).setRs
      { s.rs with total := f.total, seq := f.seq, chan := f.chan }).accept f := by
  simpa [hp, hi] using s.reassemble_cases f

theorem State.accept_complete {s : State} {f : Fragment} (hdone : f.total = 0#32 ∨ f.idx = s.rs.total) :
    s.accept f = ((s.appendAll .c0 f.payload).setRs Rs.idle).setLast .complete := by
  obtain ⟨-, h⟩ | ⟨htotal, hidx, -⟩ := s.accept_cases f
  · exact h
  · exact absurd hdone (not_or.mpr ⟨htotal, hidx⟩)

theorem State.accept_needMore {s : State} {f : Fragment} (hdone : ¬ (f.total = 0#32 ∨ f.idx = s.rs.total)) :
    s.accept f = ((s.appendAll .c0 f.payload).setRs
      { s.rs with inProgress := true, lastIdx := f.idx }).setLast .needMore := by
  obtain ⟨h, -⟩ | ⟨-, -, h⟩ := s.accept_cases f
  · exact absurd h hdone
  · exact h

/-- An append to an emptied C0 keeps the first CAP_CHARS characters (R106, R135). -/
theorem State.appendAll_c0_of_empty {s : State} (hc : s.c0 = Cursor.empty) (bs : List Byte) :
    s.appendAll .c0 bs =
      (s.setCursor .c0 { Cursor.empty with buf := bs.take s.cfg.capChars }).setOverflow
        (s.status.overflow || decide (s.cfg.capChars < bs.length)) := by
  have hcur : s.cursor .c0 = Cursor.empty := hc
  have hlen : Cursor.empty.bufLen = 0 := rfl
  rw [s.appendAll_spec .c0 bs (by rw [hcur, hlen]; exact Nat.zero_le _), hcur, hlen, Nat.zero_add]
  rfl

/-! ### The obligations -/

/-- Settles O32: every way through FEED keeps to the frame of a FEED. -/
theorem feedWritesOneOfItsCodes : Obligations.FeedWritesOneOfItsCodes := by
  refine fun s hlive => ⟨fun hlen => ?_, exec_feed_badLineLen hlive⟩
  obtain ⟨t, ht, hframe⟩ := exec_feed_feedFrame hlive hlen
  exact ⟨t, ht, hframe.last, hframe.rest⟩

/-- Settles O34: with index 1 the completion test of an accepted fragment reads total 0 or 1. -/
theorem firstFragmentStartsAReassembly : Obligations.FirstFragmentStartsAReassembly := by
  intro s f hlive hlen hf hidle hidx done u
  have hexec := exec_feed_ok hlive hlen hf
  rw [State.reassemble_first hidle hidx] at hexec
  have htest : (f.total = 0#32 ∨ f.idx = f.total) ↔ done := by rw [hidx, eq_comm (a := 1#32)]
  constructor
  · intro hdone
    rw [hexec, State.accept_complete (htest.mpr hdone), State.appendAll_c0_of_empty rfl]
    rfl
  · intro hmore
    rw [hexec, State.accept_needMore (mt htest.mp hmore), State.appendAll_c0_of_empty rfl, hidx]
    rfl

/-- Settles O35: a stray fragment and a mismatch are two of the four ways through the reassembler. -/
theorem fragmentsOutOfSequenceAreDropped : Obligations.FragmentsOutOfSequenceAreDropped := by
  intro s f hlive hlen hf
  have hexec := exec_feed_ok hlive hlen hf
  refine ⟨fun hidle hidx => ?_, fun hprog hmiss => ?_⟩
  · rw [hexec, State.reassemble_stray hidle hidx]
    rfl
  · have hcont : s.rs.continuedBy f = false := Bool.eq_false_iff.mpr (mt (s.rs.continuedBy_iff f).mp hmiss)
    rw [hexec, State.reassemble_mismatch hprog hcont]
    rfl

/-- Settles O33: FEED completes with the framer's result, one of three. -/
theorem framingResultsChangeOnlyLast : Obligations.FramingResultsChangeOnlyLast := by
  intro s r hlive hlen hf
  rw [exec_feed_error hlive hlen hf]
  obtain rfl | rfl | rfl := frame_error hf <;> rfl

/-- Settles O38: RS_RESET discards and clears TAG. -/
theorem rsResetEmptiesTheReassembler : Obligations.RsResetEmptiesTheReassembler :=
  ⟨rfl, fun _ hlive => exec_rsReset_live hlive⟩

end Sys2Proof.Machine
end

section
/-! SUPPORT. The fetch against the bit stream (spec/10_state.md R22, spec/40_bitcursor.md R107 to R112): the run of a
fetch as a relation with a constructor for each way it goes on or ends, and from it the value, the length left, BADCHAR
and the stream of every fetch from a sound cursor. -/

namespace Sys2Proof.Machine

/-! ### Bits and numbers (spec/00_scope.md R11) -/

@[simp] theorem length_bitsMsb (n v : Nat) : (bitsMsb n v).length = n := by simp [bitsMsb]

@[simp] theorem bitsMsb_zero (v : Nat) : bitsMsb 0 v = [] := rfl

/-- The top m of m + k bits, then the low k. -/
theorem bitsMsb_add (m k v : Nat) : bitsMsb (m + k) v = bitsMsb m (v / 2 ^ k) ++ bitsMsb k (v % 2 ^ k) := by
  simp only [bitsMsb, List.range_add, List.map_append, List.map_map]
  congr 1
  · refine List.map_congr_left fun j hj => ?_
    have hj := List.mem_range.mp hj
    rw [Nat.testBit_div_two_pow]
    congr 1; omega
  · refine List.map_congr_left fun j hj => ?_
    have hj := List.mem_range.mp hj
    have hlow : k - 1 - j < k := by omega
    simp only [Function.comp_apply, Nat.testBit_mod_two_pow, hlow, decide_true, Bool.true_and]
    congr 1; omega

theorem take_bitsMsb {m n : Nat} (h : m ≤ n) (v : Nat) : (bitsMsb n v).take m = bitsMsb m (v / 2 ^ (n - m)) := by
  obtain ⟨k, rfl⟩ := Nat.exists_eq_add_of_le h
  rw [bitsMsb_add, List.take_left' (length_bitsMsb m _), Nat.add_sub_cancel_left]

theorem drop_bitsMsb {m n : Nat} (h : m ≤ n) (v : Nat) :
    (bitsMsb n v).drop m = bitsMsb (n - m) (v % 2 ^ (n - m)) := by
  obtain ⟨k, rfl⟩ := Nat.exists_eq_add_of_le h
  rw [bitsMsb_add, List.drop_left' (length_bitsMsb m _), Nat.add_sub_cancel_left]

@[simp] theorem numberOf_nil : numberOf [] = 0 := rfl

theorem numberOf_concat (bs : List Bool) (b : Bool) : numberOf (bs ++ [b]) = 2 * numberOf bs + b.toNat :=
  List.foldl_concat ..

theorem numberOf_append (as bs : List Bool) : numberOf (as ++ bs) = numberOf as * 2 ^ bs.length + numberOf bs := by
  induction bs using List.reverseRecOn with
  | nil => simp
  | append_singleton bs b ih =>
    rw [← List.append_assoc, numberOf_concat, numberOf_concat, ih, List.length_append, List.length_singleton,
      pow_succ]
    ring

theorem numberOf_replicate_false (n : Nat) : numberOf (List.replicate n false) = 0 := by
  induction n with
  | zero => rfl
  | succ n ih => rw [List.replicate_succ', numberOf_concat, ih]; rfl

theorem numberOf_bitsMsb {n v : Nat} (h : v < 2 ^ n) : numberOf (bitsMsb n v) = v := by
  induction n generalizing v with
  | zero => simp only [pow_zero, Nat.lt_one_iff] at h; rw [h]; rfl
  | succ n ih =>
    have hlow : bitsMsb 1 (v % 2 ^ 1) = [v.testBit 0] := by simp [bitsMsb, List.range_succ]
    rw [bitsMsb_add, hlow, numberOf_concat, ih (by rw [pow_succ] at h; omega), Nat.toNat_testBit]
    omega

/-! ### The stream of a cursor (spec/10_state.md R22) -/

/-- The zero bits of the stream follow the finite part. -/
theorem takeStream_eq (bs : List Bool) (n : Nat) :
    takeStream bs n = bs.take n ++ List.replicate (n - bs.length) false := by
  refine List.ext_getElem (by simp [takeStream]; omega) fun i hi _ => ?_
  have hi : i < n := by simpa [takeStream] using hi
  rw [List.getElem_append]
  by_cases hlen : i < bs.length
  · simp [takeStream, hi, hlen]
  · simp [takeStream, hlen]

@[simp] theorem numberOf_takeStream_zero (bs : List Bool) : numberOf (takeStream bs 0) = 0 := rfl

@[simp] theorem numberOf_takeStream_nil (n : Nat) : numberOf (takeStream [] n) = 0 := by
  rw [takeStream_eq, List.take_nil, List.nil_append, numberOf_replicate_false]

/-- Bits of the stream that lie beyond a first value of k bits. -/
theorem numberOf_takeStream_past {k n v : Nat} (h : k ≤ n) (hv : v < 2 ^ k) (bs : List Bool) :
    numberOf (takeStream (bitsMsb k v ++ bs) n) = v * 2 ^ (n - k) + numberOf (takeStream bs (n - k)) := by
  have hsplit : takeStream (bitsMsb k v ++ bs) n = bitsMsb k v ++ takeStream bs (n - k) := by
    rw [takeStream_eq, takeStream_eq, List.take_append, List.take_of_length_le (by simpa using h),
      List.append_assoc, List.length_append, length_bitsMsb, Nat.sub_add_eq]
  rw [hsplit, numberOf_append, numberOf_bitsMsb hv, show (takeStream bs (n - k)).length = n - k by simp [takeStream]]

/-- Bits of the stream that lie inside a first value of k bits. -/
theorem numberOf_takeStream_inside {k n v : Nat} (h : n ≤ k) (hv : v < 2 ^ k) (bs : List Bool) :
    numberOf (takeStream (bitsMsb k v ++ bs) n) = v / 2 ^ (k - n) := by
  have hlt : v / 2 ^ (k - n) < 2 ^ n := by
    rw [Nat.div_lt_iff_lt_mul (Nat.two_pow_pos _), ← pow_add, Nat.add_sub_cancel' h]; exact hv
  rw [takeStream_eq, List.take_append_of_le_length (by simpa using h), take_bitsMsb h,
    Nat.sub_eq_zero_of_le (m := List.length _) (by simp; omega), List.replicate_zero, List.append_nil,
    numberOf_bitsMsb hlt]

/-- The character at POS gives the next six bits. -/
theorem charsBits_drop_eq_some {l : List Byte} {p : Nat} {ch : Byte} {bs : List Bool} (hch : l[p]? = some ch)
    (h : charsBits (l.drop p) = some bs) :
    ∃ g gs, armor6 ch = some g ∧ charsBits (l.drop (p + 1)) = some gs ∧ bs = bitsMsb 6 g.toNat ++ gs := by
  obtain ⟨hlt, rfl⟩ := List.getElem?_eq_some_iff.mp hch
  rw [List.drop_eq_getElem_cons hlt] at h
  cases hg : armor6 l[p] with
  | none => simp [charsBits, groupBits, hg] at h
  | some g =>
    cases hcs : charsBits (l.drop (p + 1)) with
    | none => simp [charsBits, hcs] at h
    | some gs => exact ⟨g, gs, rfl, rfl, by simpa [charsBits, groupBits, hg, hcs] using h.symm⟩

/-- The characters from POS up to a later place start with the one at POS. -/
theorem take_drop_of_getElem? {α : Type} {l : List α} {p n : Nat} {a : α} (h : l[p]? = some a) (hn : p + 1 ≤ n) :
    (l.drop p).take (n - p) = a :: (l.drop (p + 1)).take (n - (p + 1)) := by
  obtain ⟨hlt, rfl⟩ := List.getElem?_eq_some_iff.mp h
  obtain ⟨k, rfl⟩ := Nat.exists_eq_add_of_le hn
  rw [List.drop_eq_getElem_cons hlt, Nat.add_sub_cancel_left, show p + 1 + k - p = k + 1 by omega, List.take_succ_cons]

theorem Cursor.bits_eq_some_iff {c : Cursor} {bs : List Bool} : c.bits = some bs ↔
    ∃ cs, charsBits (c.buf.drop c.pos) = some cs ∧ bitsMsb c.remBits.toNat c.rem.toNat ++ cs = bs :=
  Option.map_eq_some_iff

/-! ### Cursors inside a fetch (spec/40_bitcursor.md R109) -/

/-- The cursor whose remainder the fetch has taken. -/
def Cursor.release (c : Cursor) : Cursor := { c with rem := 0#6, remBits := 0#3 }

@[simp] theorem Cursor.release_buf (c : Cursor) : c.release.buf = c.buf := rfl
@[simp] theorem Cursor.release_pos (c : Cursor) : c.release.pos = c.pos := rfl
@[simp] theorem Cursor.release_bufLen (c : Cursor) : c.release.bufLen = c.bufLen := rfl
@[simp] theorem Cursor.release_remBits (c : Cursor) : c.release.remBits = 0#3 := rfl

/-- Releasing a remainder of no bits changes nothing. -/
theorem Cursor.release_of_empty {cap : Nat} {c : Cursor} (h : c.Sound cap) (hc : c.remBits.toNat = 0) :
    c.release = c := by
  have hbits : c.remBits = 0#3 := BitVec.eq_of_toNat_eq (by simpa using hc)
  have hrem : c.rem = 0#6 := by
    have := h.remLt
    rw [hc] at this
    exact BitVec.eq_of_toNat_eq (by simpa using this)
  rw [Cursor.release, ← hbits, ← hrem]

@[simp] theorem Cursor.hold_buf (c : Cursor) (g k : Nat) : (c.hold g k).buf = c.buf := rfl
@[simp] theorem Cursor.hold_pos (c : Cursor) (g k : Nat) : (c.hold g k).pos = c.pos := rfl
@[simp] theorem Cursor.hold_bufLen (c : Cursor) (g k : Nat) : (c.hold g k).bufLen = c.bufLen := rfl

theorem Cursor.hold_remBits (c : Cursor) (g : Nat) {k : Nat} (hk : k ≤ 5) : (c.hold g k).remBits.toNat = k :=
  Nat.mod_eq_of_lt (show k < 2 ^ 3 by omega)

theorem Cursor.hold_rem (c : Cursor) (g : Nat) {k : Nat} (hk : k ≤ 5) : (c.hold g k).rem.toNat = g % 2 ^ k :=
  Nat.mod_eq_of_lt (Nat.lt_of_lt_of_le (Nat.mod_lt g (Nat.two_pow_pos k))
    (Nat.pow_le_pow_right (by omega) (by omega)))

/-- The stream after a value's low k bits are held. -/
theorem Cursor.hold_bits {c : Cursor} {cs : List Bool} (hcs : charsBits (c.buf.drop c.pos) = some cs) (g : Nat)
    {k : Nat} (hk : k ≤ 5) : (c.hold g k).bits = some (bitsMsb k (g % 2 ^ k) ++ cs) :=
  Cursor.bits_eq_some_iff.mpr ⟨cs, hcs, by rw [Cursor.hold_remBits c g hk, Cursor.hold_rem c g hk]⟩

/-- The next character's group, the character consumed. -/
def FetchSt.pull (f : FetchSt) (ch : Byte) : Sextet × FetchSt :=
  group ch { f with cur := { f.cur with pos := f.cur.pos + 1 } }

@[simp] theorem FetchSt.pull_cur (f : FetchSt) (ch : Byte) :
    (f.pull ch).2.cur = { f.cur with pos := f.cur.pos + 1 } := group_cur ..

@[simp] theorem FetchSt.pull_badchar (f : FetchSt) (ch : Byte) :
    (f.pull ch).2.badchar = (f.badchar || (armor6 ch).isNone) := group_badchar ..

theorem FetchSt.pull_valid {ch : Byte} {g : Sextet} (h : armor6 ch = some g) (f : FetchSt) : (f.pull ch).1 = g := by
  rw [FetchSt.pull, group_valid h]

/-! ### The run of a fetch (R109) -/

/-- A run of the loop with `need` bits to go after the value `r`: full, past the last character, a whole group, or the
last group in part. -/
inductive FetchRun : (need r : Nat) → FetchSt → Nat × FetchSt → Prop
  | full {r : Nat} {f : FetchSt} : FetchRun 0 r f (r, f)
  | underrun {need r : Nat} {f : FetchSt} (hch : f.cur.buf[f.cur.pos]? = none) :
      FetchRun need r f (r * 2 ^ need, f)
  | whole {need r : Nat} {f : FetchSt} {ch : Byte} {q : Nat × FetchSt} (hch : f.cur.buf[f.cur.pos]? = some ch)
      (hneed : 6 ≤ need) (hrun : FetchRun (need - 6) (r * 64 + (f.pull ch).1.toNat) (f.pull ch).2 q) :
      FetchRun need r f q
  | part {need r : Nat} {f : FetchSt} {ch : Byte} (hch : f.cur.buf[f.cur.pos]? = some ch) (hpos : 0 < need)
      (hneed : need < 6) :
      FetchRun need r f (r * 2 ^ need + (f.pull ch).1.toNat / 2 ^ (6 - need),
        { (f.pull ch).2 with cur := (f.pull ch).2.cur.hold (f.pull ch).1.toNat (6 - need) })

theorem fetchLoop_run {fuel need : Nat} (h : need ≤ fuel) (r : Nat) (f : FetchSt) :
    FetchRun need r f (fetchLoop fuel need r f) := by
  induction fuel generalizing need r f with
  | zero => obtain rfl := Nat.le_zero.mp h; exact .full
  | succ fuel ih =>
    unfold fetchLoop
    split
    next hneed => subst hneed; exact .full
    next hneed =>
      split
      next hch => exact .underrun hch
      next ch hch =>
        dsimp only
        split
        next hwhole => exact .whole hch hwhole (ih (by omega) _ _)
        next hpart => exact .part hch (by omega) (by omega)

/-- A fetch of at least the bits held is a run from the released cursor with the remainder as its value; a shorter one
takes the top of the remainder. -/
theorem fetchBits_cases {cap : Nat} {f : FetchSt} (h : f.cur.Sound cap) (n : Nat) :
    (f.cur.remBits.toNat ≤ n ∧
      FetchRun (n - f.cur.remBits.toNat) f.cur.rem.toNat { f with cur := f.cur.release } (fetchBits n f)) ∨
    (n < f.cur.remBits.toNat ∧
      fetchBits n f = (f.cur.rem.toNat / 2 ^ (f.cur.remBits.toNat - n),
        { f with cur := f.cur.hold f.cur.rem.toNat (f.cur.remBits.toNat - n) })) := by
  unfold fetchBits
  dsimp only
  split
  next hzero =>
    have hrel := Cursor.release_of_empty h hzero
    have hrem : f.cur.rem.toNat = 0 := by rw [← hrel]; rfl
    refine .inl ⟨by omega, ?_⟩
    rw [hzero, hrem, hrel]
    exact fetchLoop_run (Nat.le_refl n) 0 f
  next =>
    split
    next hle => exact .inl ⟨hle, fetchLoop_run (Nat.sub_le ..) _ _⟩
    next hlt => exact .inr ⟨Nat.lt_of_not_le hlt, rfl⟩

/-! ### What a run leaves -/

namespace FetchRun
variable {need r : Nat} {f : FetchSt} {q : Nat × FetchSt}

/-- The value grows by `need` bits. -/
theorem value_lt (h : FetchRun need r f q) : q.1 < (r + 1) * 2 ^ need := by
  induction h with
  | full => simp
  | underrun => exact Nat.mul_lt_mul_of_pos_right (Nat.lt_succ_self _) (Nat.two_pow_pos _)
  | @whole need r f ch q hch hneed hrun ih =>
    calc q.1
      _ < (r * 64 + (f.pull ch).1.toNat + 1) * 2 ^ (need - 6) := ih
      _ ≤ ((r + 1) * 2 ^ 6) * 2 ^ (need - 6) := Nat.mul_le_mul_right _ (by omega)
      _ = (r + 1) * 2 ^ need := by rw [Nat.mul_assoc, ← pow_add, Nat.add_sub_cancel' hneed]
  | @part need r f ch hch hpos hneed =>
    have hg : (f.pull ch).1.toNat / 2 ^ (6 - need) < 2 ^ need := by
      rw [Nat.div_lt_iff_lt_mul (Nat.two_pow_pos _), ← pow_add, Nat.add_sub_cancel' (by omega)]
      exact (f.pull ch).1.isLt
    rw [Nat.add_mul, Nat.one_mul]
    exact Nat.add_lt_add_left hg _

theorem pos_le (h : FetchRun need r f q) : f.cur.pos ≤ q.2.cur.pos := by
  induction h with
  | full | underrun => exact Nat.le_refl _
  | whole hch hneed hrun ih => simp only [FetchSt.pull_cur] at ih; omega
  | part => simp

/-- A cursor without a remainder loses `need` bits, or all it has (R112). -/
theorem length_eq (h : FetchRun need r f q) (hrem : f.cur.remBits = 0#3) :
    q.2.cur.length = f.cur.length - need := by
  induction h with
  | full => rfl
  | underrun hch =>
    have := List.getElem?_eq_none_iff.mp hch
    simp only [Cursor.length, Cursor.bufLen, hrem, BitVec.toNat_ofNat]
    omega
  | whole hch hneed hrun ih =>
    obtain ⟨hlt, -⟩ := List.getElem?_eq_some_iff.mp hch
    rw [ih (by simpa using hrem)]
    simp only [Cursor.length, Cursor.bufLen, FetchSt.pull_cur]
    omega
  | part hch hpos hneed =>
    obtain ⟨hlt, -⟩ := List.getElem?_eq_some_iff.mp hch
    rw [Cursor.length, Cursor.hold_remBits _ _ (by omega)]
    simp only [Cursor.length, Cursor.bufLen, Cursor.hold_buf, Cursor.hold_pos, FetchSt.pull_cur, hrem,
      BitVec.toNat_ofNat]
    omega

/-- BADCHAR is raised exactly where a character the run consumed is invalid (R110). -/
theorem badchar_eq (h : FetchRun need r f q) : q.2.badchar = (f.badchar ||
    ((f.cur.buf.drop f.cur.pos).take (q.2.cur.pos - f.cur.pos)).any (fun ch => (armor6 ch).isNone)) := by
  induction h with
  | full | underrun => simp
  | whole hch hneed hrun ih =>
    have hpos := hrun.pos_le
    simp only [FetchSt.pull_cur, FetchSt.pull_badchar] at ih hpos
    rw [ih, take_drop_of_getElem? hch hpos, List.any_cons, Bool.or_assoc]
  | part hch hpos hneed =>
    simp only [FetchSt.pull_cur, FetchSt.pull_badchar, Cursor.hold_pos]
    rw [take_drop_of_getElem? hch (Nat.le_refl _), Nat.sub_self, List.take_zero, List.any_cons, List.any_nil,
      Bool.or_false]

/-- Where the characters are valid the value goes on with the next bits of the stream, which lose them (R107). -/
theorem stream (h : FetchRun need r f q) (hrem : f.cur.remBits = 0#3) {bs : List Bool}
    (hbs : charsBits (f.cur.buf.drop f.cur.pos) = some bs) :
    q.1 = r * 2 ^ need + numberOf (takeStream bs need) ∧ q.2.cur.bits = some (bs.drop need) := by
  induction h generalizing bs with
  | full => exact ⟨by simp, Cursor.bits_eq_some_iff.mpr ⟨bs, hbs, by simp [hrem]⟩⟩
  | underrun hch =>
    rw [List.drop_eq_nil_of_le (List.getElem?_eq_none_iff.mp hch)] at hbs
    obtain rfl : [] = bs := Option.some.inj hbs
    refine ⟨by simp, Cursor.bits_eq_some_iff.mpr ⟨[], ?_, by simp [hrem]⟩⟩
    rw [List.drop_eq_nil_of_le (List.getElem?_eq_none_iff.mp hch)]; rfl
  | @whole need r f ch q hch hneed hrun ih =>
    obtain ⟨g, gs, hg, hgs, rfl⟩ := charsBits_drop_eq_some hch hbs
    obtain ⟨hval, hbits⟩ := ih (by simpa using hrem) (bs := gs) (by simpa using hgs)
    refine ⟨?_, by simp [hbits, List.drop_append, hneed]⟩
    have hpow : 2 ^ need = 64 * 2 ^ (need - 6) := by
      rw [show 64 = 2 ^ 6 from rfl, ← pow_add, Nat.add_sub_cancel' hneed]
    rw [hval, FetchSt.pull_valid hg, numberOf_takeStream_past hneed g.isLt, hpow]
    ring
  | @part need r f ch hch hpos hneed =>
    obtain ⟨g, gs, hg, hgs, rfl⟩ := charsBits_drop_eq_some hch hbs
    dsimp only
    rw [FetchSt.pull_valid hg, numberOf_takeStream_inside (by omega) g.isLt,
      Cursor.hold_bits (cs := gs) (by simpa using hgs) _ (by omega),
      List.drop_append_of_le_length (by simp; omega), drop_bitsMsb (by omega)]
    exact ⟨rfl, rfl⟩

end FetchRun

/-! ### What a fetch from a sound cursor leaves (R107, R110, R112) -/

section Sound
variable {cap : Nat} {f : FetchSt} (h : f.cur.Sound cap)
include h

/-- The value of a fetch of n bits has n bits. -/
theorem fetchBits_lt (n : Nat) : (fetchBits n f).1 < 2 ^ n := by
  have hrem := h.remLt
  obtain ⟨hle, hrun⟩ | ⟨hlt, heq⟩ := fetchBits_cases h n
  · calc (fetchBits n f).1
      _ < (f.cur.rem.toNat + 1) * 2 ^ (n - f.cur.remBits.toNat) := hrun.value_lt
      _ ≤ 2 ^ f.cur.remBits.toNat * 2 ^ (n - f.cur.remBits.toNat) := Nat.mul_le_mul_right _ hrem
      _ = 2 ^ n := by rw [← pow_add, Nat.add_sub_cancel' hle]
  · rw [heq, Nat.div_lt_iff_lt_mul (Nat.two_pow_pos _), ← pow_add, Nat.add_sub_cancel' (Nat.le_of_lt hlt)]
    exact hrem

theorem fetchBits_length (n : Nat) : (fetchBits n f).2.cur.length = f.cur.length - n := by
  obtain ⟨hle, hrun⟩ | ⟨hlt, heq⟩ := fetchBits_cases h n
  · rw [hrun.length_eq rfl]
    simp only [Cursor.length, Cursor.release_remBits, Cursor.release_bufLen, Cursor.release_pos, BitVec.toNat_ofNat]
    omega
  · have := h.bitsLe
    rw [heq, Cursor.length, Cursor.hold_remBits _ _ (by omega)]
    simp only [Cursor.length, Cursor.hold_bufLen, Cursor.hold_pos]
    omega

theorem fetchBits_badchar (n : Nat) : (fetchBits n f).2.badchar = (f.badchar ||
    ((f.cur.buf.drop f.cur.pos).take ((fetchBits n f).2.cur.pos - f.cur.pos)).any (fun ch => (armor6 ch).isNone)) := by
  obtain ⟨-, hrun⟩ | ⟨-, heq⟩ := fetchBits_cases h n
  · exact hrun.badchar_eq
  · simp [heq]

/-- Where the characters left are valid a fetch takes the next n bits off the stream. -/
theorem fetchBits_stream {bs : List Bool} (hbs : f.cur.bits = some bs) (n : Nat) :
    (fetchBits n f).1 = numberOf (takeStream bs n) ∧ (fetchBits n f).2.cur.bits = some (bs.drop n) := by
  have hrem := h.remLt
  have hfive := h.bitsLe
  obtain ⟨cs, hcs, rfl⟩ := Cursor.bits_eq_some_iff.mp hbs
  obtain ⟨hle, hrun⟩ | ⟨hlt, heq⟩ := fetchBits_cases h n
  · obtain ⟨hval, hbits⟩ := hrun.stream rfl hcs
    exact ⟨by rw [hval, numberOf_takeStream_past hle hrem], by simp [hbits, List.drop_append, hle]⟩
  · rw [heq, numberOf_takeStream_inside (Nat.le_of_lt hlt) hrem, Cursor.hold_bits hcs _ (by omega),
      List.drop_append_of_le_length (by simp; omega), drop_bitsMsb (Nat.le_of_lt hlt)]
    exact ⟨rfl, rfl⟩

end Sound

/-! ### The fetch on the machine -/

/-- What a fetch from a cursor of the machine starts with. -/
def State.fetchSt (s : State) (c : CursorSel) : FetchSt :=
  { cur := s.cursor c, draws := s.draws, badchar := s.status.badchar }

section SoundState
variable {cap : Nat} {s : State} {c : CursorSel} (h : (s.cursor c).Sound cap)
include h

theorem State.fetch_lt (n : Nat) : (s.fetch c n).1 < 2 ^ n := fetchBits_lt (f := s.fetchSt c) h n

theorem State.fetch_length (n : Nat) : ((s.fetch c n).2.cursor c).length = (s.cursor c).length - n := by
  cases c <;> exact fetchBits_length (f := s.fetchSt _) h n

theorem State.fetch_badchar (n : Nat) : (s.fetch c n).2.status.badchar = (s.status.badchar ||
    (((s.cursor c).buf.drop (s.cursor c).pos).take (((s.fetch c n).2.cursor c).pos - (s.cursor c).pos)).any
      (fun ch => (armor6 ch).isNone)) := by
  cases c <;> exact fetchBits_badchar (f := s.fetchSt _) h n

theorem State.fetch_stream {bs : List Bool} (hbs : (s.cursor c).bits = some bs) (n : Nat) :
    (s.fetch c n).1 = numberOf (takeStream bs n) ∧ ((s.fetch c n).2.cursor c).bits = some (bs.drop n) := by
  cases c <;> exact fetchBits_stream (f := s.fetchSt _) h hbs n

end SoundState

end Sys2Proof.Machine
end

section
/-! SUPPORT. The dispatcher's statement (spec/42_dispatch.md): the tag is a fetch of six bits, so the laws of the fetch
say what DISPATCH leaves. -/

namespace Sys2Proof.Machine

/-- DISPATCH in a live block (R149). -/
theorem exec_dispatch_live {s : State} (h : s.status.fault = false) :
    exec .dispatch s =
      completes s.readTag.2 (if s.cfg.known s.readTag.1 then .ok else .unknownType) := whenLive_live h _

/-- The code of a tag's class: OK for a known tag, UNKNOWN_TYPE for another (R147, R148). -/
theorem code_of_known (c : Config) (tag : Nat) :
    (if c.known tag then ResultCode.ok else .unknownType).code = if tag ∈ c.knownTags then 0#4 else 7#4 := by
  rw [apply_ite ResultCode.code]
  exact if_congr List.contains_iff_mem rfl rfl

/-- What DISPATCH leaves, by the six-bit fetch from C0 (R149). -/
theorem exec_dispatch_fetch {s : State} (h : s.status.fault = false) (hsound : s.c0.Sound s.cfg.capChars) :
    let v := (s.fetch .c0 6).1
    let u := (s.fetch .c0 6).2
    exec .dispatch s = .next { s with
      c0 := u.c0, tag := BitVec.ofNat 6 v, y0 := BitVec.ofNat 64 v, draws := u.draws
      status := { s.status with
        last := if v ∈ s.cfg.knownTags then 0#4 else 7#4
        badchar := s.status.badchar ||
          ((s.c0.buf.drop s.c0.pos).take (u.c0.pos - s.c0.pos)).any (fun ch => (armor6 ch).isNone) } } := by
  intro v u
  have hbad : u.status.badchar = (s.status.badchar ||
      ((s.c0.buf.drop s.c0.pos).take (u.c0.pos - s.c0.pos)).any (fun ch => (armor6 ch).isNone)) :=
    State.fetch_badchar (c := .c0) hsound 6
  rw [exec_dispatch_live h, completes, State.setLast, code_of_known, ← hbad]
  rfl

/-! ### The obligations -/

/-- Settles O39: each clause is a law of the six-bit fetch from C0, whose value is below 64 and so a tag. -/
theorem dispatchClassifiesTheNextSixBits : Obligations.DispatchClassifiesTheNextSixBits := by
  refine ⟨rfl, fun s hlive hsound => ?_⟩
  have htag : (BitVec.ofNat 6 (s.fetch .c0 6).1).toNat = (s.fetch .c0 6).1 :=
    Nat.mod_eq_of_lt (State.fetch_lt (c := .c0) hsound 6)
  refine ⟨_, BitVec.ofNat 6 (s.fetch .c0 6).1, exec_dispatch_fetch hlive hsound, by rw [htag],
    (s.fetch_frame .c0 6).buf, State.fetch_length (c := .c0) hsound 6, fun bs hbs => ?_⟩
  rw [htag]
  exact State.fetch_stream (c := .c0) hsound hbs 6

end Sys2Proof.Machine
end

section
/-! SUPPORT. The integer and text converters' statements (spec/43_convert.md R156 to R160, R165 to R168): the armor and
text maps, the operand checks, and sign recovery as the two's-complement reading of a field. -/

namespace Sys2Proof.Machine

/-! ### The converters of a live block -/

section Live
variable {s : State} (h : s.status.fault = false)
include h

theorem exec_ascii6_live : exec .ascii6 s = completes (s.setY0 (zext64 (ascii6 s.argA.toNat))) .ok := whenLive_live h _

theorem exec_armor6_live : exec .armor6 s = completes (s.setY0 (armorResult (s.argA.extractLsb' 0 8))) .ok :=
  whenLive_live h _

theorem exec_signrec_live : exec .signrec s =
    if s.argB = 0#32 ∨ s.argB &&& (s.argB - 1#32) ≠ 0#32 then raises s .badOperand
    else if s.argA.toNat ≥ 2 * s.argB.toNat then raises s .badOperand
    else completes (s.setY0 (sext64 (u32 (signrecInt s.argA.toNat s.argB.toNat)))) .ok := whenLive_live h _

theorem exec_posrec_bad (hw : 2 ^ 27 ≤ s.argA.toNat ∨ 2 ^ 28 ≤ s.argB.toNat) :
    exec .posrec s = raises s .badOperand :=
  (whenLive_live h _).trans (if_pos hw)

theorem exec_posrec_ok (ha : s.argA.toNat < 2 ^ 27) (hb : s.argB.toNat < 2 ^ 28) :
    exec .posrec s = completes ((s.setY0 (sext64 (u32 (lat27Of s.argA.toNat)))).setY1
      (sext64 (u32 (lon28Of s.argB.toNat)))) .ok :=
  (whenLive_live h _).trans (if_neg (by omega))

theorem exec_posrec27_bad (hw : 2 ^ 17 ≤ s.argA.toNat ∨ 2 ^ 18 ≤ s.argB.toNat) :
    exec .posrec27 s = raises s .badOperand :=
  (whenLive_live h _).trans (if_pos hw)

theorem exec_posrec27_ok (ha : s.argA.toNat < 2 ^ 17) (hb : s.argB.toNat < 2 ^ 18) :
    exec .posrec27 s = completes ((s.setY0 (sext64 (u32 (lat17Of s.argA.toNat)))).setY1
      (sext64 (u32 (lon18Of s.argB.toNat)))) .ok :=
  (whenLive_live h _).trans (if_neg (by omega))

end Live

/-! ### The text map and the armor table (R165, R168) -/

theorem ascii6_of_lt {v : Nat} (h : v < 0x20) : ascii6 v = v + 0x40 := by
  unfold ascii6
  rw [if_pos (by omega)]
  omega

theorem ascii6_of_ge {v : Nat} (h : 0x20 ≤ v) (hv : v < 64) : ascii6 v = v := by
  unfold ascii6
  rw [if_neg (by omega)]
  omega

theorem ascii6_mem_printable (v : Nat) : 0x20 ≤ ascii6 v ∧ ascii6 v ≤ 0x5F := by
  unfold ascii6
  split <;> omega

/-- The values below 0x20 go to 0x40..0x5F and the others stay, so the images are apart and equal values have one
origin (R167). -/
theorem ascii6_injOn {v w : Nat} (hv : v < 64) (hw : w < 64) (h : ascii6 v = ascii6 w) : v = w := by
  obtain hv' | hv' := Nat.lt_or_ge v 0x20 <;> obtain hw' | hw' := Nat.lt_or_ge w 0x20
  · rw [ascii6_of_lt hv', ascii6_of_lt hw'] at h; omega
  · rw [ascii6_of_lt hv', ascii6_of_ge hw' hw] at h; omega
  · rw [ascii6_of_ge hv' hv, ascii6_of_lt hw'] at h; omega
  · rw [ascii6_of_ge hv' hv, ascii6_of_ge hw' hw] at h; omega

theorem exists_ascii6_eq {c : Nat} (h : 0x20 ≤ c) (hc : c ≤ 0x5F) : ∃ v, v < 64 ∧ ascii6 v = c := by
  obtain h40 | h40 := Nat.lt_or_ge c 0x40
  · exact ⟨c, h40, ascii6_of_ge h h40⟩
  · exact ⟨c - 0x40, by omega, by rw [ascii6_of_lt (by omega)]; omega⟩

/-- ARMOR6's value with the bands of the armor table written out. -/
theorem armorResult_eq (c : Byte) : armorResult c =
    if 0x30 ≤ c.toNat ∧ c.toNat ≤ 0x57 then BitVec.ofNat 64 (c.toNat - 0x30)
    else if 0x60 ≤ c.toNat ∧ c.toNat ≤ 0x77 then BitVec.ofNat 64 (c.toNat - 0x38)
    else 0xFFFFFFFFFFFFFFFF#64 := by
  unfold armorResult armor6
  split_ifs with hlow hhigh
  · simp only [zext64, BitVec.toNat_ofNat]
    rw [Nat.mod_eq_of_lt (by omega)]
  · simp only [zext64, BitVec.toNat_ofNat]
    rw [Nat.mod_eq_of_lt (by omega)]
  · rfl

/-! ### Sign recovery (R156) -/

/-- A value of k + 1 bits has bit k set exactly where it is at least 2^k. -/
theorem signrecInt_two_pow {v k : Nat} (h : v < 2 ^ (k + 1)) :
    signrecInt v (2 ^ k) = if 2 ^ k ≤ v then (v : Int) - 2 ^ (k + 1) else (v : Int) := by
  have hbit : v &&& 2 ^ k ≠ 0 ↔ 2 ^ k ≤ v := by
    rw [Nat.and_two_pow]
    constructor
    · intro hne
      by_contra hlt
      simp [Nat.testBit_lt_two_pow (Nat.not_le.mp hlt)] at hne
    · intro hle
      simp [Nat.testBit_of_two_pow_le_and_two_pow_add_one_gt hle h]
  unfold signrecInt
  exact if_congr hbit (by push_cast; ring) rfl

/-- Sign recovery with the mask of the highest bit is the two's-complement reading of the field. -/
theorem signrecInt_eq_toInt {v k : Nat} (h : v < 2 ^ (k + 1)) :
    signrecInt v (2 ^ k) = (BitVec.ofNat (k + 1) v).toInt := by
  have hlt : 2 * v < 2 ^ (k + 1) ↔ ¬ 2 ^ k ≤ v := by omega
  rw [signrecInt_two_pow h, BitVec.toInt_eq_toNat_cond, BitVec.toNat_ofNat, Nat.mod_eq_of_lt h, ← ite_not]
  exact if_congr hlt.symm rfl (by push_cast; rfl)

/-- `u32` loses nothing of a result that fits in 32 bits (R169). -/
theorem sext64_u32 {x : Int} (hlo : -2 ^ 31 ≤ x) (hhi : x < 2 ^ 31) : sext64 (u32 x) = BitVec.ofInt 64 x :=
  congrArg (BitVec.ofInt 64) (BitVec.toInt_ofInt_eq_self (by decide) hlo hhi)

/-- A field of w bits scaled by c fits where c × 2^w does (R160). -/
theorem sext64_u32_mul_toInt {w c : Nat} (hpos : 0 < c) (hc : c * 2 ^ w ≤ 2 ^ 32) (x : BitVec w) :
    sext64 (u32 (c * x.toInt)) = BitVec.ofInt 64 (c * x.toInt) := by
  have hc : (c : Int) * 2 ^ w ≤ 2 ^ 32 := by exact_mod_cast hc
  have hpos : (0 : Int) < c := by exact_mod_cast hpos
  have hlo : (c : Int) * -2 ^ w ≤ c * (2 * x.toInt) := mul_le_mul_of_nonneg_left BitVec.le_two_mul_toInt hpos.le
  have hhi : (c : Int) * (2 * x.toInt) < c * 2 ^ w := mul_lt_mul_of_pos_left BitVec.two_mul_toInt_lt hpos
  exact sext64_u32 (by linarith) (by linarith)

theorem sext64_u32_toInt {w : Nat} (hw : w ≤ 32) (x : BitVec w) : sext64 (u32 x.toInt) = BitVec.ofInt 64 x.toInt := by
  have h := sext64_u32_mul_toInt Nat.one_pos (by rw [one_mul]; exact Nat.pow_le_pow_right (by decide) hw) x
  simpa using h

/-! ### The position fields (R159, R160) -/

theorem lat27Of_eq_toInt {v : Nat} (h : v < 2 ^ 27) : lat27Of v = (BitVec.ofNat 27 v).toInt :=
  signrecInt_eq_toInt (k := 26) h

theorem lon28Of_eq_toInt {v : Nat} (h : v < 2 ^ 28) : lon28Of v = (BitVec.ofNat 28 v).toInt :=
  signrecInt_eq_toInt (k := 27) h

theorem lat17Of_eq_toInt {v : Nat} (h : v < 2 ^ 17) : lat17Of v = 1000 * (BitVec.ofNat 17 v).toInt :=
  congrArg (1000 * ·) (signrecInt_eq_toInt (k := 16) h)

theorem lon18Of_eq_toInt {v : Nat} (h : v < 2 ^ 18) : lon18Of v = 1000 * (BitVec.ofNat 18 v).toInt :=
  congrArg (1000 * ·) (signrecInt_eq_toInt (k := 17) h)

theorem sext64_lat17Of {v : Nat} (h : v < 2 ^ 17) :
    sext64 (u32 (lat17Of v)) = BitVec.ofInt 64 (1000 * (BitVec.ofNat 17 v).toInt) := by
  rw [lat17Of_eq_toInt h]
  exact sext64_u32_mul_toInt (c := 1000) (by decide) (by decide) _

theorem sext64_lon18Of {v : Nat} (h : v < 2 ^ 18) :
    sext64 (u32 (lon18Of v)) = BitVec.ofInt 64 (1000 * (BitVec.ofNat 18 v).toInt) := by
  rw [lon18Of_eq_toInt h]
  exact sext64_u32_mul_toInt (c := 1000) (by decide) (by decide) _

/-! ### The mask of SIGNREC (R157) -/

/-- A word is a single bit exactly where clearing its lowest set bit leaves 0. -/
theorem singleBit_iff (m : Word) : ¬ (m = 0#32 ∨ m &&& (m - 1#32) ≠ 0#32) ↔ ∃ k, k < 32 ∧ m.toNat = 2 ^ k := by
  by_cases hm : m = 0#32
  · subst hm
    simpa using fun k (_ : k < 32) => (Nat.two_pow_pos k).ne
  have hne : m.toNat ≠ 0 := fun h0 => hm (BitVec.eq_of_toNat_eq h0)
  have hpred : (m - 1#32).toNat = m.toNat - 1 := by bv_omega
  have hclear : m &&& (m - 1#32) = 0#32 ↔ m.toNat.isPowerOfTwo := by
    rw [← Nat.and_sub_one_eq_zero_iff_isPowerOfTwo hne, ← hpred, ← BitVec.toNat_and]
    exact BitVec.toNat_eq
  rw [or_iff_right hm, not_not, hclear]
  constructor
  · rintro ⟨k, hk⟩
    exact ⟨k, (Nat.pow_lt_pow_iff_right (by decide)).mp (hk ▸ m.isLt), hk⟩
  · rintro ⟨k, -, hk⟩
    exact ⟨k, hk⟩

/-- SIGNREC with the single-bit mask 2^k and a value of k + 1 bits. -/
theorem exec_signrec_ok {s : State} (h : s.status.fault = false) {k : Nat} (hk : k < 32) (hb : s.argB.toNat = 2 ^ k)
    (ha : s.argA.toNat < 2 ^ (k + 1)) :
    exec .signrec s = completes (s.setY0 (BitVec.ofInt 64 (signrecInt s.argA.toNat (2 ^ k)))) .ok := by
  rw [exec_signrec_live h, if_neg ((singleBit_iff _).mpr ⟨k, hk, hb⟩), if_neg (by rw [hb]; omega), hb,
    signrecInt_eq_toInt ha, sext64_u32_toInt hk]

theorem exec_signrec_bad {s : State} (h : s.status.fault = false)
    (hbad : (∀ k, k < 32 → s.argB.toNat ≠ 2 ^ k) ∨ 2 * s.argB.toNat ≤ s.argA.toNat) :
    exec .signrec s = raises s .badOperand := by
  rw [exec_signrec_live h]
  obtain hmask | hwide := hbad
  · have hnot : ¬ ∃ k, k < 32 ∧ s.argB.toNat = 2 ^ k := by simpa using hmask
    rw [if_pos (not_not.mp (mt (singleBit_iff _).mp hnot))]
  · rw [if_pos hwide, ite_self]

/-! ### The obligations -/

/-- Settles O54: the group is `armor6`'s, of the low byte. -/
theorem armor6GivesTheGroupOrTheSentinel : Obligations.Armor6GivesTheGroupOrTheSentinel := by
  refine ⟨rfl, fun s hlive => ?_⟩
  have hbyte : (s.argA.extractLsb' 0 8).toNat = s.argA.toNat % 256 := by
    rw [BitVec.extractLsb'_toNat, Nat.shiftRight_zero]
  rw [exec_armor6_live hlive, armorResult_eq, hbyte]
  rfl

/-- Settles O53: the map is onto the range and has one origin for each code. -/
theorem ascii6MapsOntoThePrintableRange : Obligations.Ascii6MapsOntoThePrintableRange := by
  refine ⟨rfl, fun _ => rfl, fun s hlive => exec_ascii6_live hlive, fun c hlo hhi => ?_, ascii6_mem_printable⟩
  obtain ⟨v, hv, hvc⟩ := exists_ascii6_eq hlo hhi
  exact ⟨v, hv, hvc, fun w hw hwc => ascii6_injOn hw hv (hwc.trans hvc.symm)⟩

/-- Settles O49: the operand checks hold exactly for a single-bit mask and a value of its field. -/
theorem signrecReadsTwosComplement : Obligations.SignrecReadsTwosComplement := by
  refine ⟨rfl, fun s hlive => ⟨fun k hk hb ha => ?_, exec_signrec_bad hlive⟩⟩
  rw [exec_signrec_ok hlive hk hb ha, signrecInt_two_pow ha]
  rfl

/-- Settles O50: the fixed masks are the highest bits of the fields, and every result fits in 32 bits. -/
theorem positionRecoveryOfBothWidths : Obligations.PositionRecoveryOfBothWidths := by
  refine ⟨rfl, rfl, fun s hlive => ⟨fun ⟨ha, hb⟩ => ?_, exec_posrec_bad hlive, fun ⟨ha, hb⟩ => ?_,
    exec_posrec27_bad hlive⟩⟩
  · rw [exec_posrec_ok hlive ha hb, lat27Of_eq_toInt ha, lon28Of_eq_toInt hb, sext64_u32_toInt (by decide),
      sext64_u32_toInt (by decide)]
    rfl
  · rw [exec_posrec27_ok hlive ha hb, sext64_lat17Of ha, sext64_lon18Of hb]
    rfl

end Sys2Proof.Machine
end

section
/-! SUPPORT. The degree converters' statements (spec/43_convert.md R162, R163): `rne64` is the nearest binary64 value,
by way of the nearest integer to the quotient scaled into [2^52, 2^53], and `bits64` is its pattern. -/

namespace Sys2Proof.Machine

/-! ### The nearest integer, ties to even -/

/-- `m` is the nearest integer to `a`, and even where another is as near; `IsNearest` on the integers. -/
def IsNearestInt (a : ℚ) (m : ℤ) : Prop :=
  ∀ k : ℤ, |a - m| < |a - k| ∨ k = m ∨ (|a - m| = |a - k| ∧ Even m)

namespace IsNearestInt
variable {a : ℚ} {m : ℤ}

theorem abs_sub_le (h : IsNearestInt a m) (k : ℤ) : |a - m| ≤ |a - k| := by
  obtain hlt | rfl | ⟨heq, -⟩ := h k
  · exact hlt.le
  · exact le_rfl
  · exact heq.le

theorem neg (h : IsNearestInt a m) : IsNearestInt (-a) (-m) := by
  intro k
  have hflip : ∀ j : ℤ, |-a - j| = |a - (-j : ℤ)| := fun j => by rw [← abs_neg]; push_cast; ring_nf
  rw [hflip, hflip, neg_neg, even_neg]
  exact (h (-k)).imp_right (Or.imp_left fun hk => by omega)

theorem sign_mul (h : IsNearestInt a m) {n : ℤ} (hn : n ≠ 0) : IsNearestInt (n.sign * a) (n.sign * m) := by
  obtain hneg | hpos := lt_or_gt_of_ne hn
  · simpa [Int.sign_eq_neg_one_of_neg hneg] using h.neg
  · simpa [Int.sign_eq_one_of_pos hpos] using h

/-- Rounding does not pass an integer below. -/
theorem le_of_le (h : IsNearestInt a m) {k : ℤ} (hk : (k : ℚ) ≤ a) : k ≤ m := by
  by_contra hlt
  have hlt : (m : ℚ) < k := by exact_mod_cast not_le.mp hlt
  have hnear := h.abs_sub_le k
  rw [abs_of_pos (by linarith), abs_of_nonneg (by linarith)] at hnear
  linarith

/-- Rounding does not pass an integer above. -/
theorem ge_of_ge (h : IsNearestInt a m) {k : ℤ} (hk : a ≤ k) : m ≤ k := by
  have := h.neg.le_of_le (k := -k) (by push_cast; linarith)
  omega

end IsNearestInt

/-- Over a common denominator the distances to the integers are integers themselves. -/
theorem isNearestInt_div_iff (n : ℤ) {d : Nat} (hd : 0 < d) (m : ℤ) : IsNearestInt ((n : ℚ) / d) m ↔
    ∀ k : ℤ, |n - d * m| < |n - d * k| ∨ k = m ∨ (|n - d * m| = |n - d * k| ∧ Even m) := by
  have hd : (0 : ℚ) < d := by exact_mod_cast hd
  have hdist : ∀ k : ℤ, |(n : ℚ) / d - k| = ((|n - d * k| : ℤ) : ℚ) / d := fun k => by
    rw [Int.cast_abs, ← abs_of_pos hd, ← abs_div, abs_of_pos hd]
    congr 1
    push_cast
    field_simp
  simp only [IsNearestInt, hdist, div_lt_div_iff_of_pos_right hd, div_left_inj' hd.ne', Int.cast_lt, Int.cast_inj]

/-- `divRne` is the quotient or its successor, whichever is nearer, and the even one of the two in a tie. -/
theorem divRne_cases (n d : Nat) :
    (divRne n d = n / d ∧ (2 * (n % d) < d ∨ 2 * (n % d) = d ∧ divRne n d % 2 = 0)) ∨
    (divRne n d = n / d + 1 ∧ (d < 2 * (n % d) ∨ 2 * (n % d) = d ∧ divRne n d % 2 = 0)) := by
  unfold divRne
  dsimp only
  split_ifs <;> omega

/-- An integer other than 0 and 1 is further from a proper fraction r / d than either. -/
theorem min_le_abs_remainder_sub {d r : ℤ} (hr : 0 ≤ r) (hrd : r < d) {j : ℤ} (h0 : j ≠ 0) (h1 : j ≠ 1) :
    min (d + r) (2 * d - r) ≤ |r - d * j| := by
  obtain hj | hj : j ≤ -1 ∨ 2 ≤ j := by omega
  · have := mul_le_mul_of_nonneg_left hj (hr.trans hrd.le)
    rw [abs_of_nonneg (by linarith)]
    omega
  · have := mul_le_mul_of_nonneg_left hj (hr.trans hrd.le)
    rw [abs_of_nonpos (by linarith)]
    omega

/-- Only the quotient and its successor can be nearest, and `divRne` chooses between them by the remainder. -/
theorem divRne_isNearestInt (n : Nat) {d : Nat} (hd : 0 < d) : IsNearestInt ((n : ℚ) / d) (divRne n d) := by
  rw [← Int.cast_natCast n, isNearestInt_div_iff n hd]
  intro k
  have hmod : n % d < d := Nat.mod_lt n hd
  have hshift : ∀ i : ℤ, |(n : ℤ) - d * i| = |((n % d : Nat) : ℤ) - d * (i - (n / d : Nat))| := fun i => by
    have hn : (d : ℤ) * (n / d : Nat) + (n % d : Nat) = n := by exact_mod_cast Nat.div_add_mod n d
    congr 1
    linear_combination -hn
  have hzero : |(n : ℤ) - d * (n / d : Nat)| = (n % d : Nat) := by
    rw [hshift, sub_self, mul_zero, sub_zero, Nat.abs_cast]
  have hone : |(n : ℤ) - d * (n / d + 1 : Nat)| = d - (n % d : Nat) := by
    rw [hshift, Nat.cast_succ, add_sub_cancel_left, mul_one, abs_of_neg (by omega), neg_sub]
  have hfar (h0 : k ≠ (n / d : Nat)) (h1 : k ≠ (n / d + 1 : Nat)) :
      min ((d : ℤ) + (n % d : Nat)) (2 * d - (n % d : Nat)) ≤ |(n : ℤ) - d * k| := by
    rw [hshift]
    exact min_le_abs_remainder_sub (by omega) (by omega) (by omega) (by omega)
  rw [Int.even_coe_nat, Nat.even_iff]
  obtain ⟨hm, hnear⟩ | ⟨hm, hnear⟩ := divRne_cases n d <;> rw [hm] at hnear ⊢
  · rw [hzero]
    obtain rfl | hk0 := eq_or_ne k (n / d : Nat)
    · exact .inr (.inl rfl)
    obtain rfl | hk1 := eq_or_ne k (n / d + 1 : Nat)
    · rw [hone]; omega
    · have := hfar hk0 hk1; omega
  · rw [hone]
    obtain rfl | hk0 := eq_or_ne k (n / d : Nat)
    · rw [hzero]; omega
    obtain rfl | hk1 := eq_or_ne k (n / d + 1 : Nat)
    · exact .inr (.inl rfl)
    · have := hfar hk0 hk1; omega

theorem scaleRne_isNearestInt (n : Nat) {d : Nat} (hd : 0 < d) (k : ℤ) :
    IsNearestInt ((n : ℚ) / d * 2 ^ k) (scaleRne n d k) := by
  unfold scaleRne
  split_ifs with hk
  · obtain ⟨j, rfl⟩ := Int.eq_ofNat_of_zero_le hk
    have h := divRne_isNearestInt (n * 2 ^ j) hd
    rw [Nat.cast_mul, mul_div_right_comm] at h
    simpa using h
  · obtain ⟨j, hj⟩ := Int.eq_ofNat_of_zero_le (show 0 ≤ -k by omega)
    obtain rfl : k = -j := by omega
    have h := divRne_isNearestInt n (Nat.mul_pos hd (Nat.two_pow_pos j))
    rw [Nat.cast_mul, ← div_div] at h
    simpa [div_eq_mul_inv] using h

/-! ### The exponent -/

theorem ratLtPow_iff (n : Nat) {d : Nat} (hd : 0 < d) (l : ℤ) : ratLtPow n d l = true ↔ (n : ℚ) / d < 2 ^ l := by
  have hd : (0 : ℚ) < d := by exact_mod_cast hd
  unfold ratLtPow
  split_ifs with hl
  · obtain ⟨j, rfl⟩ := Int.eq_ofNat_of_zero_le hl
    rw [decide_eq_true_iff, div_lt_iff₀ hd, ← Nat.cast_lt (α := ℚ), mul_comm (2 ^ _ : ℚ)]
    simp
  · obtain ⟨j, hj⟩ := Int.eq_ofNat_of_zero_le (show 0 ≤ -l by omega)
    obtain rfl : l = -j := by omega
    rw [decide_eq_true_iff, div_lt_iff₀ hd, ← Nat.cast_lt (α := ℚ), zpow_neg, ← div_eq_inv_mul,
      lt_div_iff₀ (by positivity)]
    simp

theorem floorLog2_bounds (n d : Nat) : -(Nat.log2 d : ℤ) - 1 ≤ floorLog2 n d ∧ floorLog2 n d ≤ Nat.log2 n := by
  unfold floorLog2
  dsimp only
  split_ifs <;> omega

theorem two_zpow_log2_le {n : Nat} (hn : 0 < n) : (2 : ℚ) ^ (Nat.log2 n : ℤ) ≤ n := by
  exact_mod_cast Nat.log2_self_le hn.ne'

theorem lt_two_zpow_log2 (n : Nat) : (n : ℚ) < 2 ^ ((Nat.log2 n : ℤ) + 1) := by
  exact_mod_cast Nat.lt_log2_self (n := n)

/-- The quotient lies in the binade of `floorLog2`. -/
theorem floorLog2_spec {n d : Nat} (hn : 0 < n) (hd : 0 < d) :
    (2 : ℚ) ^ floorLog2 n d ≤ (n : ℚ) / d ∧ (n : ℚ) / d < 2 ^ (floorLog2 n d + 1) := by
  have hdq : (0 : ℚ) < d := by exact_mod_cast hd
  have hnlo := two_zpow_log2_le hn
  have hnhi := lt_two_zpow_log2 n
  have hdlo := two_zpow_log2_le hd
  have hdhi := lt_two_zpow_log2 d
  unfold floorLog2
  dsimp only
  split_ifs with h
  · rw [ratLtPow_iff n hd] at h
    refine ⟨?_, by rwa [sub_add_cancel]⟩
    rw [le_div_iff₀ hdq]
    calc (2 : ℚ) ^ ((Nat.log2 n : ℤ) - Nat.log2 d - 1) * d
      _ ≤ 2 ^ ((Nat.log2 n : ℤ) - Nat.log2 d - 1) * 2 ^ ((Nat.log2 d : ℤ) + 1) := by gcongr
      _ = 2 ^ (Nat.log2 n : ℤ) := by rw [← zpow_add₀ two_ne_zero]; ring_nf
      _ ≤ n := hnlo
  · rw [ratLtPow_iff n hd, not_lt] at h
    refine ⟨h, ?_⟩
    rw [div_lt_iff₀ hdq]
    calc (n : ℚ)
      _ < 2 ^ ((Nat.log2 n : ℤ) + 1) := hnhi
      _ = 2 ^ ((Nat.log2 n : ℤ) - Nat.log2 d + 1) * 2 ^ (Nat.log2 d : ℤ) := by
          rw [← zpow_add₀ two_ne_zero]; ring_nf
      _ ≤ 2 ^ ((Nat.log2 n : ℤ) - Nat.log2 d + 1) * d := by gcongr

/-- The significand before the carry: the quotient scaled to [2^52, 2^53). -/
def significand (n d : Nat) : Nat := scaleRne n d (52 - floorLog2 n d)

theorem significand_isNearestInt (n : Nat) {d : Nat} (hd : 0 < d) :
    IsNearestInt ((n : ℚ) / d * 2 ^ (52 - floorLog2 n d)) (significand n d) := scaleRne_isNearestInt n hd _

/-- Rounding stays within the binade, its upper end included. -/
theorem significand_bounds {n d : Nat} (hn : 0 < n) (hd : 0 < d) :
    2 ^ 52 ≤ significand n d ∧ significand n d ≤ 2 ^ 53 := by
  obtain ⟨hlo, hhi⟩ := floorLog2_spec hn hd
  have hround := significand_isNearestInt n hd
  have hpos : (0 : ℚ) < 2 ^ (52 - floorLog2 n d) := by positivity
  constructor
  · refine Int.ofNat_le.mp (hround.le_of_le ?_)
    calc ((2 ^ 52 : Nat) : ℚ)
      _ = 2 ^ floorLog2 n d * 2 ^ (52 - floorLog2 n d) := by
          rw [← zpow_add₀ two_ne_zero, add_sub_cancel]; norm_cast
      _ ≤ n / d * 2 ^ (52 - floorLog2 n d) := by gcongr
  · refine Int.ofNat_le.mp (hround.ge_of_ge ?_)
    calc (n : ℚ) / d * 2 ^ (52 - floorLog2 n d)
      _ ≤ 2 ^ (floorLog2 n d + 1) * 2 ^ (52 - floorLog2 n d) := by gcongr
      _ = ((2 ^ 53 : Nat) : ℚ) := by
          rw [← zpow_add₀ two_ne_zero, show floorLog2 n d + 1 + (52 - floorLog2 n d) = 53 by ring]; norm_cast

/-! ### The value of a binary64 number -/

/-- The significand with the sign. -/
def Bin64.signed (x : Bin64) : ℤ := if x.neg then -x.man else x.man

theorem Bin64.toRat_eq_signed (x : Bin64) : x.toRat = x.signed * 2 ^ x.exp := by
  unfold Bin64.toRat Bin64.signed
  split <;> simp

theorem Bin64.natAbs_signed (x : Bin64) : x.signed.natAbs = x.man := by
  unfold Bin64.signed
  split <;> simp

theorem Bin64.num_eq_signed (x : Bin64) : x.num = x.signed * 2 ^ x.exp.toNat := by
  unfold Bin64.num Bin64.signed
  split <;> simp

theorem Bin64.den_pos (x : Bin64) : 0 < x.den := Nat.two_pow_pos _

theorem Bin64.num_div_den (x : Bin64) : (x.num : ℚ) / x.den = x.toRat := by
  have hexp : x.exp = x.exp.toNat - (-x.exp).toNat := by omega
  rw [x.toRat_eq_signed, x.num_eq_signed, Bin64.den]
  conv_rhs => rw [hexp, zpow_sub₀ two_ne_zero, zpow_natCast, zpow_natCast]
  push_cast
  rw [mul_div_assoc]

theorem Bin64.natAbs_num (x : Bin64) : x.num.natAbs = x.man * 2 ^ x.exp.toNat := by
  rw [x.num_eq_signed, Int.natAbs_mul, x.natAbs_signed, Int.natAbs_pow]
  rfl

theorem Bin64.IsNormal.man_lt {x : Bin64} (h : x.IsNormal) : x.man < 2 ^ 53 := by
  obtain ⟨hzero, -⟩ | ⟨-, hlt, -, -⟩ := h
  · rw [hzero]; norm_num
  · exact hlt

/-- A value of at most 53 bits is a multiple of 2^k, or its magnitude is below 2^(k + 52). -/
theorem Bin64.toRat_multiple_or_small {y : Bin64} (hy : y.man < 2 ^ 53) (k : ℤ) :
    (∃ j : ℤ, y.toRat = j * 2 ^ k) ∨ |y.toRat| < 2 ^ (k + 52) := by
  rw [y.toRat_eq_signed]
  obtain hk | hk := le_or_gt k y.exp
  · obtain ⟨i, hi⟩ := Int.eq_ofNat_of_zero_le (sub_nonneg.mpr hk)
    refine .inl ⟨y.signed * 2 ^ i, ?_⟩
    rw [show y.exp = i + k by omega, zpow_add₀ two_ne_zero, zpow_natCast]
    push_cast
    rw [mul_assoc]
  · right
    have hman : (y.man : ℚ) < 2 ^ 53 := by exact_mod_cast hy
    rw [abs_mul, ← Int.cast_abs, Int.abs_eq_natAbs, y.natAbs_signed, Int.cast_natCast,
      abs_of_pos (by positivity : (0 : ℚ) < 2 ^ y.exp)]
    calc (y.man : ℚ) * 2 ^ y.exp
      _ < 2 ^ 53 * 2 ^ y.exp := by gcongr
      _ = 2 ^ (53 + y.exp) := by rw [zpow_add₀ two_ne_zero]; rfl
      _ ≤ 2 ^ (k + 52) := zpow_le_zpow_right₀ one_le_two (by omega)

/-- One of ±2^(k + 52) lies between 0 and a value of at least that magnitude. -/
theorem exists_abs_sub_eq {q : ℚ} {k : ℤ} (hq : 2 ^ (k + 52) ≤ |q|) :
    ∃ j : ℤ, |q - j * 2 ^ k| = |q| - 2 ^ (k + 52) := by
  have hend : (2 : ℚ) ^ (k + 52) = 2 ^ 52 * 2 ^ k := by rw [add_comm, zpow_add₀ two_ne_zero]; rfl
  rw [hend] at hq ⊢
  obtain hpos | hneg := abs_cases q
  · refine ⟨2 ^ 52, ?_⟩
    push_cast
    rw [abs_of_nonneg] <;> linarith
  · refine ⟨-2 ^ 52, ?_⟩
    push_cast
    rw [abs_of_nonpos] <;> linarith

/-- The nearest multiple of the last place of q's binade is the nearest of all: a value that is no such multiple has a
smaller magnitude than the binade's end ±2^(k + 52), which is a multiple. -/
theorem isNearest_of_isNearestInt {q : ℚ} {x : Bin64} {m k : ℤ} (hx : x.IsNormal) (hval : x.toRat = m * 2 ^ k)
    (heven : Even m → x.man % 2 = 0) (hbinade : 2 ^ (k + 52) ≤ |q|) (hm : IsNearestInt (q / 2 ^ k) m) :
    IsNearest q x := by
  have hulp : (0 : ℚ) < 2 ^ k := by positivity
  have hdist : ∀ j : ℤ, |q - j * 2 ^ k| = |q / 2 ^ k - j| * 2 ^ k := fun j => by
    rw [← abs_of_pos hulp, ← abs_mul, abs_of_pos hulp, sub_mul, div_mul_cancel₀ _ hulp.ne']
  refine ⟨hx, fun y hy => ?_⟩
  obtain ⟨j, hj⟩ | hsmall := Bin64.toRat_multiple_or_small hy k
  · rw [hval, hj, hdist, hdist, mul_lt_mul_iff_left₀ hulp, mul_left_inj' hulp.ne', mul_left_inj' hulp.ne',
      Int.cast_inj]
    exact (hm j).imp_right (Or.imp_right (And.imp_right heven))
  · left
    obtain ⟨j, hj⟩ := exists_abs_sub_eq hbinade
    calc |q - x.toRat|
      _ = |q / 2 ^ k - m| * 2 ^ k := by rw [hval, hdist]
      _ ≤ |q / 2 ^ k - j| * 2 ^ k := mul_le_mul_of_nonneg_right (hm.abs_sub_le j) hulp.le
      _ = |q| - 2 ^ (k + 52) := by rw [← hdist, hj]
      _ < |q| - |y.toRat| := by linarith
      _ ≤ |q - y.toRat| := abs_sub_abs_le_abs_sub q y.toRat

/-! ### Rounding a quotient -/

@[simp] theorem rne64_zero (d : Nat) : rne64 0 d = ⟨false, 0, 0⟩ := rfl

/-- `rne64` of a nonzero quotient is the significand in its binade, or the next binade's first value after a carry. -/
theorem rne64_cases {n : ℤ} (hn : n ≠ 0) (d : Nat) :
    (significand n.natAbs d ≠ 2 ^ 53 ∧
      rne64 n d = ⟨decide (n < 0), significand n.natAbs d, floorLog2 n.natAbs d - 52⟩) ∨
    (significand n.natAbs d = 2 ^ 53 ∧ rne64 n d = ⟨decide (n < 0), 2 ^ 52, floorLog2 n.natAbs d - 51⟩) := by
  unfold rne64
  rw [if_neg hn]
  by_cases hm : significand n.natAbs d = 2 ^ 53
  · exact .inr ⟨hm, if_pos hm⟩
  · exact .inl ⟨hm, if_neg hm⟩

theorem rne64_toRat {n : ℤ} (hn : n ≠ 0) (d : Nat) :
    (rne64 n d).toRat = (n.sign * significand n.natAbs d : ℤ) * 2 ^ (floorLog2 n.natAbs d - 52) := by
  have hsign : (n.sign : ℚ) = if n < 0 then -1 else 1 := by
    obtain hneg | hpos := lt_or_gt_of_ne hn
    · simp [hneg, Int.sign_eq_neg_one_of_neg hneg]
    · simp [hpos.le, Int.sign_eq_one_of_pos hpos]
  obtain ⟨-, hx⟩ | ⟨hm, hx⟩ := rne64_cases hn d
  · simp [hx, Bin64.toRat, hsign]
  · have hcarry : (2 : ℚ) ^ (floorLog2 n.natAbs d - 51) = 2 * 2 ^ (floorLog2 n.natAbs d - 52) := by
      rw [← zpow_one_add₀ two_ne_zero]; ring_nf
    rw [hx, hm]
    simp only [Bin64.toRat, decide_eq_true_eq, hcarry]
    push_cast
    rw [hsign]
    ring

theorem rne64_neg_of_nonneg {n : ℤ} (hn : 0 ≤ n) (d : Nat) : (rne64 n d).neg = false := by
  obtain rfl | hne := eq_or_ne n 0
  · rfl
  · obtain ⟨-, hx⟩ | ⟨-, hx⟩ := rne64_cases hne d <;> rw [hx] <;> exact decide_eq_false hn.not_gt

/-- The carry leaves an even significand too. -/
theorem rne64_even {n : ℤ} (hn : n ≠ 0) (d : Nat) (h : Even (n.sign * significand n.natAbs d : ℤ)) :
    (rne64 n d).man % 2 = 0 := by
  rw [← Int.natAbs_even, Int.natAbs_mul, Int.natAbs_sign_of_ne_zero hn, one_mul, Int.natAbs_natCast,
    Nat.even_iff] at h
  obtain ⟨-, hx⟩ | ⟨-, hx⟩ := rne64_cases hn d <;> rw [hx]
  · exact h
  · norm_num

theorem rne64_exp_bounds (n : ℤ) (d : Nat) :
    -(Nat.log2 d : ℤ) - 53 ≤ (rne64 n d).exp ∧ (rne64 n d).exp ≤ Nat.log2 n.natAbs := by
  obtain ⟨hlo, hhi⟩ := floorLog2_bounds n.natAbs d
  obtain rfl | hn := eq_or_ne n 0
  · rw [rne64_zero]; dsimp only; omega
  · obtain ⟨-, hx⟩ | ⟨-, hx⟩ := rne64_cases hn d <;> rw [hx] <;> dsimp only <;> omega

/-- A numerator and a denominator below 2^200 have their quotient 0 or well inside the normal range. -/
theorem rne64_isNormal (n : ℤ) {d : Nat} (hd : 0 < d) (hdmax : d < 2 ^ 200) (hnmax : n.natAbs < 2 ^ 200) :
    (rne64 n d).IsNormal := by
  obtain rfl | hn := eq_or_ne n 0
  · exact .inl ⟨rfl, rfl⟩
  right
  obtain ⟨hlo, hhi⟩ := floorLog2_bounds n.natAbs d
  obtain ⟨hmlo, hmhi⟩ := significand_bounds (Int.natAbs_pos.mpr hn) hd
  have hdlog := (Nat.log2_lt hd.ne').mpr hdmax
  have hnlog := (Nat.log2_lt (Int.natAbs_ne_zero.mpr hn)).mpr hnmax
  obtain ⟨hm, hx⟩ | ⟨-, hx⟩ := rne64_cases hn d <;> rw [hx]
  · exact ⟨hmlo, lt_of_le_of_ne hmhi hm, by dsimp only; omega, by dsimp only; omega⟩
  · exact ⟨le_rfl, by norm_num, by dsimp only; omega, by dsimp only; omega⟩

/-- `rne64` is `RNE64` on such quotients (spec/00_scope.md R12): 0 is exact, and the significand is the nearest multiple
of the last place of the quotient's binade. -/
theorem rne64_isNearest (n : ℤ) {d : Nat} (hd : 0 < d) (hdmax : d < 2 ^ 200) (hnmax : n.natAbs < 2 ^ 200) :
    IsNearest ((n : ℚ) / d) (rne64 n d) := by
  have hnormal := rne64_isNormal n hd hdmax hnmax
  obtain rfl | hn := eq_or_ne n 0
  · refine ⟨hnormal, fun y _ => ?_⟩
    have hzero : (rne64 0 d).toRat = 0 := by simp [Bin64.toRat]
    obtain hy | hy := eq_or_ne y.toRat 0
    · exact .inr (.inl (hy.trans hzero.symm))
    · exact .inl (by rwa [hzero, Int.cast_zero, zero_div, sub_zero, abs_zero, zero_sub, abs_neg, abs_pos])
  have hscaled : (n : ℚ) / d / 2 ^ (floorLog2 n.natAbs d - 52) =
      n.sign * ((n.natAbs : ℚ) / d * 2 ^ (52 - floorLog2 n.natAbs d)) := by
    have habs : (n.sign : ℚ) * n.natAbs = n := by rw [← Int.cast_natCast, ← Int.cast_mul, Int.sign_mul_natAbs]
    rw [← neg_sub (floorLog2 n.natAbs d) 52, zpow_neg, ← habs]
    ring
  have hround := (significand_isNearestInt n.natAbs hd).sign_mul hn
  rw [← hscaled] at hround
  refine isNearest_of_isNearestInt hnormal (rne64_toRat hn d) (rne64_even hn d) ?_ hround
  rw [sub_add_cancel, abs_div, ← Int.cast_abs, Int.abs_eq_natAbs, Int.cast_natCast, Nat.abs_cast]
  exact (floorLog2_spec (Int.natAbs_pos.mpr hn) hd).1

/-! ### The sum and the pattern (R162) -/

/-- One addition, rounded once, of values far from the ends of the range. -/
theorem addInt64_isNearest {whole : ℤ} {x : Bin64} (hw : whole.natAbs < 2 ^ 32) (hx : x.man < 2 ^ 53)
    (hlo : -100 ≤ x.exp) (hhi : x.exp ≤ 100) : IsNearest (whole + x.toRat) (addInt64 whole x) := by
  have hvalue : (whole : ℚ) + x.toRat = ((whole * x.den + x.num : ℤ) : ℚ) / x.den := by
    have hden : (x.den : ℚ) ≠ 0 := by exact_mod_cast x.den_pos.ne'
    rw [← x.num_div_den]
    push_cast
    field_simp
  rw [hvalue]
  have hden : x.den ≤ 2 ^ 100 := Nat.pow_le_pow_right (by decide) (by omega)
  refine rne64_isNearest _ x.den_pos (hden.trans_lt (by norm_num)) ?_
  calc (whole * x.den + x.num).natAbs
    _ ≤ whole.natAbs * x.den + x.man * 2 ^ x.exp.toNat := by
        refine (Int.natAbs_add_le _ _).trans_eq ?_
        rw [Int.natAbs_mul, Int.natAbs_natCast, x.natAbs_num]
    _ ≤ 2 ^ 32 * 2 ^ 100 + 2 ^ 53 * 2 ^ 100 := by
        have hpow : 2 ^ x.exp.toNat ≤ 2 ^ 100 := Nat.pow_le_pow_right (by decide) (by omega)
        gcongr
    _ < 2 ^ 200 := by norm_num

/-- The fields of a concatenation add up. -/
theorem toNat_append_eq_add {v w : Nat} (x : BitVec v) (y : BitVec w) :
    (x ++ y).toNat = x.toNat * 2 ^ w + y.toNat := by
  rw [BitVec.toNat_append, ← Nat.shiftLeft_add_eq_or_of_lt y.isLt, Nat.shiftLeft_eq]

/-- A normal value's fields are in range, so none spills into the next. -/
theorem bits64_hasPattern {x : Bin64} (hx : x.IsNormal) : x.HasPattern (bits64 x) := by
  unfold bits64
  obtain ⟨hzero, -⟩ | ⟨hlo, hhi, helo, hehi⟩ := hx
  · have hbits : (BitVec.ofBool x.neg ++ 0#63).toNat = x.neg.toNat * 2 ^ 63 := by
      rw [toNat_append_eq_add, BitVec.toNat_ofBool, BitVec.toNat_ofNat, Nat.zero_mod, Nat.add_zero]
    rw [if_pos hzero]
    refine ⟨?_, fun _ => ?_, fun hne => absurd hzero hne, fun hne => absurd hzero hne⟩ <;> rw [hbits] <;> omega
  · have hman : x.man ≠ 0 := by omega
    have hfrac : (BitVec.ofNat 52 (x.man - 2 ^ 52)).toNat = x.man - 2 ^ 52 := by
      rw [BitVec.toNat_ofNat, Nat.mod_eq_of_lt (by omega)]
    have hexp : ((BitVec.ofInt 11 (x.exp + 52 + 1023)).toNat : Int) = x.exp + 52 + 1023 := by
      rw [BitVec.toNat_ofInt]
      omega
    have hbits : (BitVec.ofBool x.neg ++ BitVec.ofInt 11 (x.exp + 52 + 1023)
          ++ BitVec.ofNat 52 (x.man - 2 ^ 52)).toNat =
        (x.neg.toNat * 2 ^ 11 + (BitVec.ofInt 11 (x.exp + 52 + 1023)).toNat) * 2 ^ 52 + (x.man - 2 ^ 52) := by
      rw [toNat_append_eq_add, toNat_append_eq_add, BitVec.toNat_ofBool, hfrac]
    rw [if_neg hman]
    refine ⟨?_, fun hz => absurd hz hman, fun _ => ?_, fun _ => ?_⟩ <;> rw [hbits] <;> omega

/-! ### The degrees of a word (R162, R163) -/

theorem degRem_eq_tmod (v : ℤ) : degRem v = v.tmod 600000 := by
  rw [Int.tmod_def, degRem, degWhole, mul_comm]

theorem natAbs_degWhole (v : ℤ) : (degWhole v).natAbs = v.natAbs / 600000 := Int.natAbs_tdiv v 600000

theorem natAbs_degRem_lt (v : ℤ) : (degRem v).natAbs < 600000 := by
  rw [degRem_eq_tmod, Int.natAbs_tmod]
  exact Nat.mod_lt _ (by decide)

theorem natAbs_s32_le (v : Word) : (s32 v).natAbs ≤ 2 ^ 31 := by
  have hlo := v.le_toInt
  have hhi := v.toInt_lt
  unfold s32
  omega

/-- The fraction of a degree (R162). -/
theorem rne64_degRem_isNearest (v : ℤ) :
    IsNearest (((v.tmod 600000 : ℤ) : ℚ) / 600000) (rne64 (degRem v) 600000) := by
  rw [← degRem_eq_tmod]
  exact rne64_isNearest (d := 600000) _ (by decide) (by norm_num) ((natAbs_degRem_lt v).trans (by norm_num))

/-- The whole degrees and the fraction are far from the ends of the range (R162). -/
theorem degOf_isNearest (v : Word) :
    IsNearest (degWhole (s32 v) + (rne64 (degRem (s32 v)) 600000).toRat) (degOf (s32 v)) := by
  have hv := natAbs_s32_le v
  have hwhole := natAbs_degWhole (s32 v)
  have hrem : Nat.log2 (degRem (s32 v)).natAbs ≤ Nat.log2 600000 := by
    simpa only [Nat.log2_eq_log_two] using Nat.log_mono_right (natAbs_degRem_lt (s32 v)).le
  have hlog : Nat.log2 600000 = 19 := by decide
  obtain ⟨hlo, hhi⟩ := rne64_exp_bounds (degRem (s32 v)) 600000
  exact addInt64_isNearest (by omega) (rne64_degRem_isNearest _).1.man_lt (by omega) (by omega)

/-- The minutes (R163). -/
theorem minutesOf_isNearest (v : ℤ) : IsNearest (|((v.tmod 600000 : ℤ) : ℚ)| / 10000) (minutesOf v) := by
  rw [← degRem_eq_tmod, ← Int.cast_abs, Int.abs_eq_natAbs]
  exact rne64_isNearest (d := 10000) _ (by decide) (by norm_num) ((natAbs_degRem_lt v).trans (by norm_num))

section Live
variable {s : State} (h : s.status.fault = false)
include h

theorem exec_deg_live : exec .deg s = completes (s.setY0 (bits64 (degOf (s32 s.argA)))) .ok := whenLive_live h _

theorem exec_degmin_live : exec .degmin s = completes ((s.setY0 (bits64 (minutesOf (s32 s.argA)))).setY1
    (BitVec.ofInt 64 (degWhole (s32 s.argA)))) .ok := by
  have hwhole := natAbs_degWhole (s32 s.argA)
  have hv := natAbs_s32_le s.argA
  rw [← sext64_u32 (by omega) (by omega)]
  exact whenLive_live h _

end Live

/-! ### The obligations -/

/-- Settles O52: one rounding of a non-negative quotient, and a whole part that fits in 32 bits. -/
theorem degminIsRoundedOnce : Obligations.DegminIsRoundedOnce := by
  refine ⟨rfl, fun s hlive => ?_⟩
  have hminutes := minutesOf_isNearest (s32 s.argA)
  exact ⟨_, _, hminutes, rne64_neg_of_nonneg (Int.natCast_nonneg _) _, bits64_hasPattern hminutes.1,
    exec_degmin_live hlive⟩

/-- Settles O51: the fraction and the sum are each rounded by `rne64`, and Y0 is the pattern of the sum. -/
theorem degIsRoundedTwice : Obligations.DegIsRoundedTwice := by
  refine ⟨rfl, fun s hlive => ?_⟩
  have hsum := degOf_isNearest s.argA
  exact ⟨_, _, _, rne64_degRem_isNearest _, hsum, bits64_hasPattern hsum.1, exec_deg_live hlive⟩

end Sys2Proof.Machine
end

section
/-! SUPPORT. The decoder family's statement on the record (spec/44_decoders.md): what REC_CLEAR leaves in a live block. -/

namespace Sys2Proof.Machine

/-- REC_CLEAR in a live block (R195). -/
theorem exec_recClear_live {s : State} (h : s.status.fault = false) :
    exec .recClear s = completes s.clearRec .ok := whenLive_live h _

/-! ### The obligations -/

/-- Settles O48: the state left is the cleared record with the code OK, and a cleared record reads 0 at every word. -/
theorem recClearZeroesTheRecord : Obligations.RecClearZeroesTheRecord :=
  ⟨rfl, fun s hlive => ⟨s.clearRec.setLast .ok, exec_recClear_live hlive, s.recWord_clearRec, rfl⟩⟩

end Sys2Proof.Machine
end

section
/-! SUPPORT. The system commands' statement (spec/45_system.md): NOP and CLRFLAGS on both sides of the gate of R209, and
RESET, which has no gate. -/

namespace Sys2Proof.Machine

section Live
variable {s : State} (h : s.status.fault = false)
include h

/-- NOP in a live block (R201). -/
theorem exec_nop_live : exec .nop s = completes s .ok := whenLive_live h _

/-- CLRFLAGS in a live block (R203). -/
theorem exec_clrflags_live : exec .clrflags s = completes ((s.setBadchar false).setOverflow false) .ok :=
  whenLive_live h _

end Live

section Faulted
variable {s : State} (h : s.status.fault = true)
include h

/-- A faulted block ignores NOP (R209). -/
theorem exec_nop_faulted : exec .nop s = .next s := whenLive_faulted h _

/-- A faulted block ignores CLRFLAGS (R209). -/
theorem exec_clrflags_faulted : exec .clrflags s = .next s := whenLive_faulted h _

end Faulted

/-- RESET in any state, faulted or not (R202). -/
theorem exec_reset (s : State) : exec .reset s = .next s.resetBlock := rfl

/-! ### The obligations -/

/-- Settles O17: NOP and CLRFLAGS run on the live side of the gate only, and the state RESET leaves is `resetBlock`. -/
theorem systemCommandsDoNothingElse : Obligations.SystemCommandsDoNothingElse := by
  refine ⟨rfl, rfl, rfl, fun s => ⟨fun hlive => ?_, fun hfault => ?_, ?_⟩⟩
  · exact ⟨exec_nop_live hlive, exec_clrflags_live hlive⟩
  · exact ⟨exec_nop_faulted hfault, exec_clrflags_faulted hfault⟩
  · exact ⟨s.resetBlock, exec_reset s, s.resetBlock_status, s.resetBlock_cfg, s.resetBlock_host⟩

end Sys2Proof.Machine
end

section
/-! SUPPORT. Command words (spec/30_encoding.md R53 to R59): a word's parts, what each answer of the decoder says of
the word, and the decoder and the encoder as inverses of each other. -/

namespace Sys2Proof.Machine

/-! ### The parts of a word (R54, R55) -/

/-- A word is its OPC, seven bits, the C bit, ten bits and N. -/
theorem word_eq_parts (w : Word) :
    fieldOpc w ++ w.extractLsb' 17 7 ++ w.extractLsb' 16 1 ++ w.extractLsb' 6 10 ++ fieldN w = w := by
  apply BitVec.eq_of_toNat_eq
  simp only [fieldOpc, fieldN, toNat_append_eq_add, BitVec.extractLsb'_toNat, Nat.shiftRight_eq_div_pow]
  omega

/-- The C field, as the bit it is. -/
theorem bit_fieldC (w : Word) : (fieldC w).bit = w.extractLsb' 16 1 := by
  have hbit : w.extractLsb' 16 1 = BitVec.ofBool (w.getLsbD 16) := by
    apply BitVec.eq_of_toNat_eq
    simp only [BitVec.extractLsb'_toNat, BitVec.toNat_ofBool, BitVec.getLsbD, Nat.toNat_testBit,
      Nat.shiftRight_eq_div_pow, pow_one]
  rw [hbit, fieldC]
  cases w.getLsbD 16 <;> rfl

theorem CursorSel.bit_injective {c d : CursorSel} (h : c.bit = d.bit) : c = d := by
  revert c d; intro c d; cases c <;> cases d <;> simp [CursorSel.bit]

@[simp] theorem fieldC_wordCN (opc : BitVec 8) (c : CursorSel) (n : Sextet) : fieldC (wordCN opc c n) = c := by
  apply CursorSel.bit_injective
  rw [bit_fieldC]
  change (opc ++ 0#7 ++ c.bit ++ 0#10 ++ n).extractLsb' 16 1 = c.bit
  repeat rw [BitVec.extractLsb'_append_eq_of_le (by decide)]
  exact BitVec.extractLsb'_append_eq_right

/-- A field of a word is clear where a mask that covers it is clear in the word. -/
theorem extractLsb'_eq_zero_of_and {w m : Word} {start len : Nat} (h : w &&& m = 0#32)
    (hm : m.extractLsb' start len = BitVec.allOnes len) : w.extractLsb' start len = 0#len :=
  calc w.extractLsb' start len
    _ = w.extractLsb' start len &&& m.extractLsb' start len := by rw [hm, BitVec.and_allOnes]
    _ = (w &&& m).extractLsb' start len := BitVec.extractLsb'_and.symm
    _ = 0#len := by rw [h, BitVec.extractLsb'_zero]

/-- The word of a format with the fields given; a format without C or N holds none (R55). -/
def formatWord : Format → BitVec 8 → CursorSel → Sextet → Word
  | .z, opc, _, _ => wordZ opc
  | .c, opc, c, _ => wordC opc c
  | .cn, opc, c, n => wordCN opc c n

theorem wordZ_eq_wordCN (opc : BitVec 8) : wordZ opc = wordCN opc .c0 0#6 := by
  apply BitVec.eq_of_toNat_eq
  simp only [wordZ, wordCN, toNat_append_eq_add, CursorSel.bit, BitVec.toNat_ofNat]
  omega

theorem wordC_eq_wordCN (opc : BitVec 8) (c : CursorSel) : wordC opc c = wordCN opc c 0#6 := by
  apply BitVec.eq_of_toNat_eq
  simp only [wordC, wordCN, toNat_append_eq_add, BitVec.toNat_ofNat]
  omega

/-- A word with clear bits where format CN reserves them is the CN word of its own fields. -/
theorem wordCN_fields {w : Word} (h17 : w.extractLsb' 17 7 = 0#7) (h6 : w.extractLsb' 6 10 = 0#10) :
    wordCN (fieldOpc w) (fieldC w) (fieldN w) = w := by
  have h := word_eq_parts w
  rw [h17, h6, ← bit_fieldC] at h
  exact h

/-- A word without a reserved bit of the format is the word of its own fields. -/
theorem formatWord_fields {w : Word} {f : Format} (h : w &&& rsvMask f = 0#32) :
    formatWord f (fieldOpc w) (fieldC w) (fieldN w) = w := by
  have hcn := wordCN_fields (w := w) (extractLsb'_eq_zero_of_and h (by cases f <;> rfl))
    (extractLsb'_eq_zero_of_and h (by cases f <;> rfl))
  cases f with
  | cn => exact hcn
  | c =>
    have hn : fieldN w = 0#6 := extractLsb'_eq_zero_of_and h rfl
    rw [hn] at hcn
    exact (wordC_eq_wordCN _ _).trans hcn
  | z =>
    have hn : fieldN w = 0#6 := extractLsb'_eq_zero_of_and h rfl
    have hc : fieldC w = .c0 := CursorSel.bit_injective ((bit_fieldC w).trans (extractLsb'_eq_zero_of_and h rfl))
    rw [hn, hc] at hcn
    exact (wordZ_eq_wordCN _).trans hcn

/-! ### The answers of the decoder (R57) -/

/-- The format the opcode map gives an OPC, none where it is unassigned. -/
def formatOf (opc : BitVec 8) : Option Format := (opRow opc).map OpRow.format

theorem decode_badOpcode_iff (w : Word) : decode w = .error .badOpcode ↔ formatOf (fieldOpc w) = none := by
  unfold decode formatOf
  cases opRow (fieldOpc w) with
  | none => simp
  | some r =>
    dsimp only
    split
    · simp
    · split <;> simp

theorem decode_reservedBits_iff (w : Word) : decode w = .error .reservedBits ↔
    ∃ f, formatOf (fieldOpc w) = some f ∧ w &&& rsvMask f ≠ 0#32 := by
  unfold decode formatOf
  cases opRow (fieldOpc w) with
  | none => simp
  | some r =>
    dsimp only
    split
    · simpa
    · split <;> simp_all

theorem decode_badWidth_iff (w : Word) : decode w = .error .badWidth ↔
    formatOf (fieldOpc w) = some .cn ∧ w &&& rsvMask .cn = 0#32 ∧ widthOk (fieldN w) = false := by
  unfold decode formatOf
  cases opRow (fieldOpc w) with
  | none => simp
  | some r =>
    dsimp only
    split
    next h =>
      have hcn : r.format = .cn → w &&& rsvMask .cn ≠ 0#32 := fun hf => by rwa [hf] at h
      simpa using fun hf hz => absurd hz (hcn hf)
    next h => split <;> simp_all

theorem decode_ok_iff (w : Word) (i : Instr) : decode w = .ok i ↔
    ∃ r, opRow (fieldOpc w) = some r ∧ w &&& rsvMask r.format = 0#32 ∧
      (r.format = .cn → widthOk (fieldN w) = true) ∧ r.build (fieldC w) (fieldN w) = i := by
  unfold decode
  cases opRow (fieldOpc w) with
  | none => simp
  | some r =>
    dsimp only
    split
    · simp_all
    · split <;> simp_all

/-! ### The rows of the opcode map (R58) -/

/-- The command a row builds is encoded by the row's own OPC and format, and only a width can make it ill formed. -/
theorem encode_build {r : OpRow} (hr : r ∈ opcodeMap) (c : CursorSel) (n : Sextet) :
    encode (r.build c n) = formatWord r.format r.opc c n ∧
      ((r.format = .cn → widthOk n = true) → (r.build c n).wf = true) := by
  revert r
  simp only [opcodeMap, List.forall_mem_cons, List.not_mem_nil, false_imp_iff, implies_true]
  simp [encode, formatWord, Instr.wf]

/-- The formats of the opcode map, an unassigned OPC having none (R58, R59). -/
theorem formatOf_eq (opc : BitVec 8) : formatOf opc =
    if opc.toNat ∈ [0x10, 0x11, 0x12, 0x15] then some .c
    else if opc.toNat ∈ [0x13, 0x14] then some .cn
    else if (0x03 ≤ opc.toNat ∧ opc.toNat ≤ 0x0F) ∨ (0x17 ≤ opc.toNat ∧ opc.toNat ≤ 0x1F) ∨
      (0x22 ≤ opc.toNat ∧ opc.toNat ≤ 0x2F) ∨ (0x33 ≤ opc.toNat ∧ opc.toNat ≤ 0x3F) ∨ 0x47 ≤ opc.toNat then none
    else some .z := by
  revert opc; decide +kernel

theorem toNat_fieldOpc (w : Word) : (fieldOpc w).toNat = w.toNat / 2 ^ 24 := by
  have := w.isLt
  rw [fieldOpc, BitVec.extractLsb'_toNat, Nat.shiftRight_eq_div_pow, Nat.mod_eq_of_lt (by omega)]

theorem toNat_fieldN (w : Word) : (fieldN w).toNat = w.toNat % 64 := by
  rw [fieldN, BitVec.extractLsb'_toNat, Nat.shiftRight_zero]

/-- A CN word of an assigned OPC with a legal width is the command its row builds. -/
theorem decode_wordCN_ok {opc : BitVec 8} {r : OpRow} (hr : opRow opc = some r) (hf : r.format = .cn)
    (c : CursorSel) {n : Sextet} (hn : widthOk n = true) : decode (wordCN opc c n) = .ok (r.build c n) :=
  (decode_ok_iff _ _).mpr ⟨r, by simpa using hr, by simp [hf], fun _ => by simpa using hn, by simp⟩

/-! ### The obligations -/

/-- Settles O1: the word of a command without a width is a constant for each cursor, and a CN word gives its fields
back. -/
theorem decodeEncodeRoundTrip : Obligations.DecodeEncodeRoundTrip := by
  intro i hwf
  cases i with
  | bcFetch c n => exact decode_wordCN_ok (opc := 0x13#8) rfl rfl c hwf
  | bcFetchs c n => exact decode_wordCN_ok (opc := 0x14#8) rfl rfl c hwf
  | bcInit c | bcClear c | bcAppend c | bcLength c => cases c <;> rfl
  | _ => rfl

/-- Settles O2: a word without reserved bits is the word of its own fields, and the row it names encodes them. -/
theorem encodeDecodeRoundTrip : Obligations.EncodeDecodeRoundTrip := by
  intro w i hw
  obtain ⟨r, hr, hrsv, hwidth, rfl⟩ := (decode_ok_iff w i).mp hw
  have hopc : r.opc = fieldOpc w := by simpa using List.find?_some hr
  obtain ⟨henc, hwf⟩ := encode_build (List.mem_of_find?_eq_some hr) (fieldC w) (fieldN w)
  exact ⟨by rw [henc, hopc, formatWord_fields hrsv], hwf hwidth⟩

/-- Settles O3: each answer is a condition on the row of the word's OPC, whose format the map gives. -/
theorem illegalWordsAreToldApart : Obligations.IllegalWordsAreToldApart := by
  intro w opc unassigned reserved width
  have hformat : formatOf (fieldOpc w) = if opc ∈ [0x10, 0x11, 0x12, 0x15] then some .c
      else if opc ∈ [0x13, 0x14] then some .cn else if unassigned then none else some .z := by
    rw [formatOf_eq, toNat_fieldOpc]
  have hwidth : widthOk (fieldN w) = false ↔ width = 0 ∨ 32 < width := by
    rw [widthOk_eq_false_iff, toNat_fieldN]
  have hlists : opc ∈ [0x10, 0x11, 0x12, 0x15] ∨ opc ∈ [0x13, 0x14] → ¬ unassigned := by
    simp only [List.mem_cons, List.not_mem_nil, or_false, unassigned]; omega
  have hdisj : opc ∈ [0x10, 0x11, 0x12, 0x15] → opc ∉ [0x13, 0x14] := by
    simp only [List.mem_cons, List.not_mem_nil, or_false]; omega
  rw [decode_badOpcode_iff, decode_reservedBits_iff, decode_badWidth_iff, hwidth, hformat]
  by_cases hc : opc ∈ [0x10, 0x11, 0x12, 0x15]
  · simp [hc, hdisj hc, hlists (.inl hc), reserved, rsvMask]
  · by_cases hcn : opc ∈ [0x13, 0x14]
    · simp [hc, hcn, hlists (.inr hcn), reserved, rsvMask]
    · by_cases hun : unassigned
      · simp [hc, hcn, hun, reserved, rsvMask]
      · simp [hc, hcn, hun, reserved, rsvMask]

/-- Settles O4: each word is evaluated by the decoder. -/
theorem writtenOutWordsDecode : Obligations.WrittenOutWordsDecode := ⟨rfl, rfl, rfl, rfl, rfl, rfl, rfl⟩

end Sys2Proof.Machine
end

section
/-! SUPPORT. What a command can do, said once (spec/10_state.md R24 to R31, spec/60_exceptions.md R205 to R209):
the parts of the block each command writes, and the four ways a command ends. The whole-machine statements follow. -/

namespace Sys2Proof.Machine

/-! ### Footprints -/

theorem State.Inv.cursor {s : State} (h : s.Inv) (c : CursorSel) : (s.cursor c).Sound s.cfg.capChars := by
  cases c
  · exact h.c0
  · exact h.c1

theorem Cursor.empty_sound (cap : Nat) : Cursor.empty.Sound cap := ⟨by decide, Nat.zero_le _, by decide, by decide⟩

theorem Cursor.Sound.rewind {cap : Nat} {x : Cursor} (h : x.Sound cap) : x.rewind.Sound cap :=
  ⟨Nat.zero_le _, h.lenLe, Nat.zero_le _, Nat.one_pos⟩

theorem Rs.idle_sound : Rs.idle.Sound := ⟨fun _ => rfl, fun h => by cases h⟩

/-- The parts of the block that only some commands write; `flags` is the clearing of the sticky flags. -/
inductive Part where
  | cursor (c : CursorSel)
  | rs
  | recs
  | tag
  | y0
  | y1
  | flags
deriving DecidableEq

/-- `u` is `s` but for the parts `ws`, raised sticky flags and the draw number; and no invariant is lost. -/
structure Footprint (ws : List Part) (s u : State) : Prop where
  cfg : u.cfg = s.cfg
  argA : u.argA = s.argA
  argB : u.argB = s.argB
  lineLen : u.lineLen = s.lineLen
  lineMem : u.lineMem = s.lineMem
  host : u.host = s.host
  resets : u.resets = s.resets
  cursor : ∀ c, .cursor c ∉ ws → u.cursor c = s.cursor c
  rs : .rs ∉ ws → u.rs = s.rs
  recMem : .recs ∉ ws → u.recMem = s.recMem
  tag : .tag ∉ ws → u.tag = s.tag
  y0 : .y0 ∉ ws → u.y0 = s.y0
  y1 : .y1 ∉ ws → u.y1 = s.y1
  badchar : .flags ∉ ws → s.status.badchar = true → u.status.badchar = true
  overflow : .flags ∉ ws → s.status.overflow = true → u.status.overflow = true
  status : u.status = { s.status with badchar := u.status.badchar, overflow := u.status.overflow }
  inv : s.Inv → u.Inv

namespace Footprint
variable {ws : List Part} {s u v : State}

theorem refl (ws : List Part) (s : State) : Footprint ws s s :=
  ⟨rfl, rfl, rfl, rfl, rfl, rfl, rfl, fun _ _ => rfl, fun _ => rfl, fun _ => rfl, fun _ => rfl, fun _ => rfl,
    fun _ => rfl, fun _ => id, fun _ => id, rfl, id⟩

theorem trans (h : Footprint ws s u) (k : Footprint ws u v) : Footprint ws s v where
  cfg := k.cfg.trans h.cfg
  argA := k.argA.trans h.argA
  argB := k.argB.trans h.argB
  lineLen := k.lineLen.trans h.lineLen
  lineMem := k.lineMem.trans h.lineMem
  host := k.host.trans h.host
  resets := k.resets.trans h.resets
  cursor c hc := (k.cursor c hc).trans (h.cursor c hc)
  rs hw := (k.rs hw).trans (h.rs hw)
  recMem hw := (k.recMem hw).trans (h.recMem hw)
  tag hw := (k.tag hw).trans (h.tag hw)
  y0 hw := (k.y0 hw).trans (h.y0 hw)
  y1 hw := (k.y1 hw).trans (h.y1 hw)
  badchar hw := k.badchar hw ∘ h.badchar hw
  overflow hw := k.overflow hw ∘ h.overflow hw
  status := k.status.trans (by rw [h.status])
  inv := k.inv ∘ h.inv

/-! One lemma for each update the commands are made of. -/

theorem setY0 (hw : .y0 ∈ ws) (s : State) (x : DWord) : Footprint ws s (s.setY0 x) where
  __ := refl ws s
  y0 h := absurd hw h
  inv h := ⟨h.c0, h.c1, h.rs, h.status, h.line, h.recs⟩

theorem setY1 (hw : .y1 ∈ ws) (s : State) (x : DWord) : Footprint ws s (s.setY1 x) where
  __ := refl ws s
  y1 h := absurd hw h
  inv h := ⟨h.c0, h.c1, h.rs, h.status, h.line, h.recs⟩

theorem setTag (hw : .tag ∈ ws) (s : State) (x : Sextet) : Footprint ws s (s.setTag x) where
  __ := refl ws s
  tag h := absurd hw h
  inv h := ⟨h.c0, h.c1, h.rs, h.status, h.line, h.recs⟩

/-- RS written after other updates: only the state they start from has to be sound. -/
theorem setRs (h : Footprint ws s u) (hw : .rs ∈ ws) {x : Rs} (hx : s.Inv → x.Sound) : Footprint ws s (u.setRs x) where
  __ := h
  cursor c hc := h.cursor c hc
  rs hw' := absurd hw hw'
  inv hs := ⟨(h.inv hs).c0, (h.inv hs).c1, hx hs, (h.inv hs).status, (h.inv hs).line, (h.inv hs).recs⟩

theorem setCursor {c : CursorSel} (hw : .cursor c ∈ ws) (s : State) {x : Cursor}
    (hx : s.Inv → x.Sound s.cfg.capChars) : Footprint ws s (s.setCursor c x) := by
  cases c with
  | c0 => exact { refl ws s with
      cursor := fun | .c0, h => absurd hw h | .c1, _ => rfl
      inv := fun h => ⟨hx h, h.c1, h.rs, h.status, h.line, h.recs⟩ }
  | c1 => exact { refl ws s with
      cursor := fun | .c0, _ => rfl | .c1, h => absurd hw h
      inv := fun h => ⟨h.c0, hx h, h.rs, h.status, h.line, h.recs⟩ }

theorem clearRec (hw : .recs ∈ ws) (s : State) : Footprint ws s s.clearRec where
  __ := refl ws s
  cursor c _ := s.cursor_clearRec c
  recMem h := absurd hw h
  inv h := ⟨h.c0, h.c1, h.rs, h.status, h.line, MemorySound.fill _ _⟩

theorem clearFlags (hw : .flags ∈ ws) (s : State) : Footprint ws s ((s.setBadchar false).setOverflow false) where
  __ := refl ws s
  cursor c _ := by simp
  badchar h := absurd hw h
  overflow h := absurd hw h
  status := rfl
  inv h := ⟨h.c0, h.c1, h.rs, ⟨h.status.live, h.status.faulted⟩, h.line, h.recs⟩

/-- Raising BADCHAR and taking draws is in every footprint. -/
theorem raiseBadchar (s : State) {b : Bool} (hb : s.status.badchar = true → b = true) (d : Nat) :
    Footprint ws s { s.setBadchar b with draws := d } where
  __ := refl ws s
  cursor c _ := by cases c <;> rfl
  badchar _ := hb
  status := rfl
  inv h := ⟨h.c0, h.c1, h.rs, ⟨h.status.live, h.status.faulted⟩, h.line, h.recs⟩

/-- Raising OVERFLOW is in every footprint. -/
theorem raiseOverflow (s : State) {o : Bool} (ho : s.status.overflow = true → o = true) :
    Footprint ws s (s.setOverflow o) where
  __ := refl ws s
  cursor c _ := s.cursor_setOverflow o c
  overflow _ := ho
  status := rfl
  inv h := ⟨h.c0, h.c1, h.rs, ⟨h.status.live, h.status.faulted⟩, h.line, h.recs⟩

theorem fetch {c : CursorSel} (hw : .cursor c ∈ ws) (s : State) (n : Nat) : Footprint ws s (s.fetch c n).2 := by
  have hf := s.fetch_frame c n
  rw [hf.rest]
  exact (setCursor hw s fun h => hf.sound _ (h.cursor c)).trans (raiseBadchar _ (by simpa using hf.badchar) _)

theorem readTag (h0 : .cursor .c0 ∈ ws) (ht : .tag ∈ ws) (hy : .y0 ∈ ws) (s : State) : Footprint ws s s.readTag.2 :=
  ((fetch h0 s 6).trans (setTag ht _ _)).trans (setY0 hy _ _)

theorem appendAll {c : CursorSel} (hw : .cursor c ∈ ws) (s : State) (bs : List Byte) :
    Footprint ws s (s.appendAll c bs) := by
  have hf := s.appendAll_frame c bs
  have hsound (h : s.Inv) : ((s.appendAll c bs).cursor c).Sound s.cfg.capChars := by
    have hc := h.cursor c
    exact ⟨by rw [hf.pos]; exact hc.posLe.trans hf.longer, hf.capped hc.lenLe, by rw [hf.remBits]; exact hc.bitsLe,
      by rw [hf.rem, hf.remBits]; exact hc.remLt⟩
  rw [hf.rest]
  exact (setCursor hw s hsound).trans (raiseOverflow _ (by simpa using hf.overflow))

/-- A piece of DECODE writes C0, C1 and REC. -/
theorem ofDecFrame (h0 : .cursor .c0 ∈ ws) (h1 : .cursor .c1 ∈ ws) (hr : .recs ∈ ws) (h : DecFrame s u) :
    Footprint ws s u where
  cfg := h.cfg
  argA := h.argA
  argB := h.argB
  lineLen := h.lineLen
  lineMem := h.lineMem
  host := h.host
  resets := h.resets
  cursor := fun | .c0, hw => absurd h0 hw | .c1, hw => absurd h1 hw
  rs _ := h.rs
  recMem hw := absurd hr hw
  tag _ := h.tag
  y0 _ := h.y0
  y1 _ := h.y1
  badchar _ := h.badchar
  overflow _ ho := by rw [h.status]; exact ho
  status := by rw [h.status]
  inv hs := by
    refine ⟨?_, ?_, h.rs ▸ hs.rs, ?_, ?_, h.recs hs.recs⟩
    · rw [h.cfg]; exact h.c0 _ hs.c0
    · rw [h.cfg]; exact h.c1 _ hs.c0 hs.c1
    · rw [h.status]; exact ⟨hs.status.live, hs.status.faulted⟩
    · rw [h.cfg, h.lineMem]; exact hs.line

theorem live (h : Footprint ws s u) (hs : s.status.fault = false) : u.status.fault = false := by
  rw [h.status]; exact hs

/-- A footprint of one cursor and Y0 leaves the rest but STATUS and the draw number (spec/40_bitcursor.md R101). -/
theorem eq_setCursor (h : Footprint ws s u) {c : CursorSel} (hws : ∀ p ∈ ws, p = .cursor c ∨ p = .y0) :
    u = { s with y0 := u.y0, status := u.status, draws := u.draws }.setCursor c (u.cursor c) := by
  have hnot {p : Part} (hc : p ≠ .cursor c) (hy : p ≠ .y0) : p ∉ ws := fun hp => (hws p hp).elim hc hy
  have hrs := h.rs (hnot (by simp) (by simp))
  have hrec := h.recMem (hnot (by simp) (by simp))
  have htag := h.tag (hnot (by simp) (by simp))
  have hy1 := h.y1 (hnot (by simp) (by simp))
  have hother (d : CursorSel) (hd : d ≠ c) := h.cursor d (hnot (by simpa using hd) (by simp))
  cases c with
  | c0 =>
    have h1 : u.c1 = s.c1 := hother .c1 (by decide)
    simp only [State.setCursor, State.cursor, ← h.cfg, ← h.argA, ← h.argB, ← h.lineLen, ← h.lineMem, ← h.host,
      ← h.resets, ← hrs, ← hrec, ← htag, ← hy1, ← h1]
  | c1 =>
    have h0 : u.c0 = s.c0 := hother .c0 (by decide)
    simp only [State.setCursor, State.cursor, ← h.cfg, ← h.argA, ← h.argB, ← h.lineLen, ← h.lineMem, ← h.host,
      ← h.resets, ← hrs, ← hrec, ← htag, ← hy1, ← h0]

end Footprint

/-! ### The footprint and the codes of each command -/

/-- What each command writes, RESET apart. -/
def partsWritten : Instr → List Part
  | .nop => []
  | .reset => []
  | .clrflags => [.flags]
  | .bcInit c => [.cursor c]
  | .bcClear c => [.cursor c]
  | .bcAppend c => [.cursor c]
  | .bcFetch c _ => [.cursor c, .y0]
  | .bcFetchs c _ => [.cursor c, .y0]
  | .bcLength _ => [.y0]
  | .bcSnapshot => [.cursor .c1]
  | .feed => [.cursor .c0, .rs]
  | .rsReset => [.cursor .c0, .rs, .tag]
  | .dispatch => [.cursor .c0, .tag, .y0]
  | .decode => [.cursor .c0, .cursor .c1, .tag, .y0, .recs]
  | .recClear => [.recs]
  | .signrec => [.y0]
  | .posrec => [.y0, .y1]
  | .posrec27 => [.y0, .y1]
  | .deg => [.y0]
  | .degmin => [.y0, .y1]
  | .ascii6 => [.y0]
  | .armor6 => [.y0]

/-- The codes each command completes with (R205). -/
def resultsOf : Instr → List ResultCode
  | .feed => feedResults
  | .dispatch => [.ok, .unknownType]
  | .decode => [.ok, .unknownType, .lengthErr]
  | _ => [.ok]

/-- The ways a command ends: RESET, ignored by a faulted block (R209), a fault that writes the fault fields only (R208),
or completed inside its footprint with one of its codes. -/
inductive Ending (i : Instr) (s : State) : State → Prop
  | reset (hi : i = .reset) : Ending i s s.resetBlock
  | ignored (hi : i ≠ .reset) (hf : s.status.fault = true) : Ending i s s
  | faults (hi : i ≠ .reset) (hf : s.status.fault = false) (k : FaultCause) : Ending i s (s.raiseFault k)
  | completes (hi : i ≠ .reset) (hf : s.status.fault = false) {u : State} {r : ResultCode} (hr : r ∈ resultsOf i)
      (hu : Footprint (partsWritten i) s u) : Ending i s (u.setLast r)

theorem exec_faulted {i : Instr} {s : State} (hi : i ≠ .reset) (h : s.status.fault = true) : exec i s = .next s := by
  cases i with
  | reset => exact absurd rfl hi
  | _ => exact whenLive_faulted h _

section Live
variable {s : State} (h : s.status.fault = false)
include h

theorem exec_bcFetch_ok (c : CursorSel) {n : Sextet} (hn : widthOk n = true) :
    exec (.bcFetch c n) s = completes ((s.fetch c n.toNat).2.setY0 (zext64 (s.fetch c n.toNat).1)) .ok :=
  (whenLive_live h _).trans (if_pos hn)

theorem exec_bcFetchs_ok (c : CursorSel) {n : Sextet} (hn : widthOk n = true) :
    exec (.bcFetchs c n) s = completes ((s.fetch c n.toNat).2.setY0
      (sext64 (u32 (signrecInt (s.fetch c n.toNat).1 (2 ^ (n.toNat - 1)))))) .ok :=
  (whenLive_live h _).trans (if_pos hn)

theorem exec_decode_live : exec .decode s =
    if s.cfg.known s.decodeTag.1 then
      match s.cfg.layoutOf s.decodeTag.1 with
      | none => .refused .noLayout
      | some l => .next (s.decodeTag.2.decodeWith s.decodeTag.1 (6 * s.c0.bufLen) l)
    else completes s.decodeTag.2 .unknownType := whenLive_live h _

end Live

/-- A live block's rule that completes a state of its footprint ends as a command may. -/
theorem leaves_completes_ending {i : Instr} {s u : State} {r : ResultCode} (hi : i ≠ .reset)
    (hf : s.status.fault = false) (hr : r ∈ resultsOf i) (hu : Footprint (partsWritten i) s u) :
    Leaves (completes u r) (Ending i s) := leaves_completes_iff.mpr (.completes hi hf hr hu)

theorem leaves_whenLive_live {s : State} {r : Result} {p : State → Prop} (hf : s.status.fault = false)
    (hr : Leaves r p) : Leaves (whenLive s r) p := by
  rwa [whenLive_live hf]

theorem leaves_raises_ending {i : Instr} {s : State} (hi : i ≠ .reset) (hf : s.status.fault = false) (k : FaultCause) :
    Leaves (raises s k) (Ending i s) := leaves_raises_iff.mpr (.faults hi hf k)

/-- The payload is appended whatever RS holds (R138). -/
theorem State.appendAll_setRs (s : State) (r : Rs) (bs : List Byte) :
    (s.setRs r).appendAll .c0 bs = (s.appendAll .c0 bs).setRs r := by
  induction bs generalizing s with
  | nil => rfl
  | cons b bs ih =>
    have hchar : (s.setRs r).appendChar .c0 b = (s.appendChar .c0 b).setRs r := by
      rw [State.appendChar, State.appendChar, apply_ite (State.setRs · r)]
      rfl
    rw [State.appendAll_cons, State.appendAll_cons, hchar, ih]

/-- An accepted fragment leaves RS idle, or in progress at the fragment's index (R139 to R141); what RS held before does
not matter where that is sound. -/
theorem State.accept_ending {s u : State} {f : Fragment} (hf : s.status.fault = false)
    (hu : Footprint (partsWritten .feed) s (u.setRs Rs.idle))
    (hmore : s.Inv → f.total ≠ 0#32 → f.idx ≠ u.rs.total →
      Rs.Sound { u.rs with inProgress := true, lastIdx := f.idx }) : Ending .feed s (u.accept f) := by
  have hrs (r : Rs) : (u.appendAll .c0 f.payload).setRs r = ((u.setRs Rs.idle).appendAll .c0 f.payload).setRs r := by
    rw [State.appendAll_setRs]; rfl
  have happend := hu.trans (.appendAll (c := .c0) (by decide) _ f.payload)
  obtain ⟨-, h⟩ | ⟨htotal, hidx, h⟩ := u.accept_cases f
  · rw [h, hrs]
    exact .completes (by decide) hf (by decide) (happend.setRs (by decide) fun _ => Rs.idle_sound)
  · rw [h, hrs]
    exact .completes (by decide) hf (by decide) (happend.setRs (by decide) fun hs => hmore hs htotal hidx)

/-- The reassembler keeps the index it records below the total (R25, R133). -/
theorem State.reassemble_ending (s : State) (f : Fragment) (hf : s.status.fault = false) :
    Ending .feed s (s.reassemble f) := by
  have hidle (u : State) (hu : Footprint (partsWritten .feed) s u) :
      Footprint (partsWritten .feed) s (u.setRs Rs.idle) := hu.setRs (by decide) fun _ => Rs.idle_sound
  have hclear : Footprint (partsWritten .feed) s (s.setCursor .c0 Cursor.empty) :=
    .setCursor (by decide) s fun _ => Cursor.empty_sound _
  obtain ⟨-, -, h⟩ | ⟨hp, hc, h⟩ | ⟨-, -, h⟩ | ⟨-, hidx, h⟩ := s.reassemble_cases f
  · rw [h]
    exact .completes (by decide) hf (by decide) (hidle _ hclear)
  · rw [h]
    refine State.accept_ending hf (hidle s (.refl _ s)) fun hs _ hne => ⟨fun hidle => by simp at hidle, fun _ => ?_⟩
    obtain ⟨-, -, -, hnext⟩ := (s.rs.continuedBy_iff f).mp hc
    have hbelow := hs.rs.inProgress hp
    have hne := BitVec.toNat_ne.mp hne
    dsimp only
    omega
  · rw [h]
    exact .completes (by decide) hf (by decide) (.refl _ s)
  · rw [h]
    refine State.accept_ending hf (hidle (s.setCursor .c0 Cursor.empty) hclear) fun _ htotal hne =>
      ⟨fun hidle => by simp at hidle, fun _ => ?_⟩
    have htotal := BitVec.toNat_ne.mp htotal
    have hne := BitVec.toNat_ne.mp hne
    simp only [State.setRs, hidx, BitVec.toNat_ofNat] at *
    omega

/-- FEED faults, stops at the framer, or runs the reassembler (R124). -/
theorem exec_feed_ending {s : State} (hf : s.status.fault = false) : Leaves (exec .feed s) (Ending .feed s) := by
  by_cases hlen : s.lineLen.toNat ≤ s.cfg.lineCap
  · cases hframe : frame ((List.range s.lineLen.toNat).map s.lineByte) with
    | error r =>
      rw [exec_feed_error hf hlen hframe]
      exact leaves_completes_ending (by decide) hf (mem_feedResults_of_frame_error hframe) (.refl _ s)
    | ok f =>
      rw [exec_feed_ok hf hlen hframe]
      exact leaves_next_iff.mpr (s.reassemble_ending f hf)
  · rw [exec_feed_badLineLen hf (Nat.lt_of_not_le hlen)]
    exact leaves_raises_ending (by decide) hf _

/-- DECODE stops at the tag, at the layout, at the length rule, or runs the descriptors (R184). -/
theorem exec_decode_ending {s : State} (hf : s.status.fault = false) : Leaves (exec .decode s) (Ending .decode s) := by
  have htag : Footprint (partsWritten .decode) s s.decodeTag.2 :=
    (Footprint.setCursor (c := .c0) (by decide) s fun h => h.c0.rewind).trans
      (.readTag (by decide) (by decide) (by decide) _)
  rw [exec_decode_live hf]
  split
  · split
    · exact fun _ h => by cases h
    next l _ =>
      rw [leaves_next_iff]
      obtain ⟨-, u, hu, h⟩ | ⟨-, h⟩ := s.decodeTag.2.decodeWith_cases s.decodeTag.1 (6 * s.c0.bufLen) l
      · rw [h]
        exact .completes (by decide) hf (by decide)
          (htag.trans (.ofDecFrame (by decide) (by decide) (by decide) hu))
      · rw [h]
        exact .completes (by decide) hf (by decide) htag
  · exact leaves_completes_ending (by decide) hf (by decide) htag

/-- Every command ends in one of the ways of `Ending`. -/
theorem exec_ending (i : Instr) (s : State) : Leaves (exec i s) (Ending i s) := by
  by_cases hi : i = .reset
  · subst hi
    exact leaves_next_iff.mpr (.reset rfl)
  cases hf : s.status.fault with
  | true => rw [exec_faulted hi hf]; exact leaves_next_iff.mpr (.ignored hi hf)
  | false =>
    have done {u : State} (hr : .ok ∈ resultsOf i) (hu : Footprint (partsWritten i) s u) :
        Leaves (completes u .ok) (Ending i s) := leaves_completes_ending hi hf hr hu
    have faults (k : FaultCause) := leaves_raises_ending hi hf k
    cases i with
    | reset => exact absurd rfl hi
    | nop => rw [exec_nop_live hf]; exact done (.head _) (.refl _ s)
    | clrflags => rw [exec_clrflags_live hf]; exact done (.head _) (.clearFlags (.head _) s)
    | bcInit c =>
      rw [exec_bcInit_live hf]
      exact done (.head _) (.setCursor (.head _) s fun h => (h.cursor c).rewind)
    | bcClear c =>
      rw [exec_bcClear_live hf]
      exact done (.head _) (.setCursor (.head _) s fun _ => Cursor.empty_sound _)
    | bcAppend c =>
      refine leaves_whenLive_live hf ?_
      split
      · exact faults _
      · exact done (.head _) (.appendAll (.head _) s _)
    | bcFetch c n =>
      cases hn : widthOk n
      · rw [exec_bcFetch_badWidth hf c hn]; exact faults _
      · rw [exec_bcFetch_ok hf c hn]
        exact done (.head _) ((Footprint.fetch (.head _) s _).trans (.setY0 (.tail _ (.head _)) _ _))
    | bcFetchs c n =>
      cases hn : widthOk n
      · rw [exec_bcFetchs_badWidth hf c hn]; exact faults _
      · rw [exec_bcFetchs_ok hf c hn]
        exact done (.head _) ((Footprint.fetch (.head _) s _).trans (.setY0 (.tail _ (.head _)) _ _))
    | bcLength c => rw [exec_bcLength_live hf]; exact done (.head _) (.setY0 (.head _) s _)
    | bcSnapshot => rw [exec_bcSnapshot_live hf]; exact done (.head _) (.setCursor (.head _) s fun h => h.c0)
    | feed => exact exec_feed_ending hf
    | rsReset =>
      rw [exec_rsReset_live hf]
      have hclear : Footprint (partsWritten .rsReset) s (s.setCursor .c0 Cursor.empty) :=
        .setCursor (.head _) s fun _ => Cursor.empty_sound _
      exact done (.head _) ((hclear.setRs (by decide) fun _ => Rs.idle_sound).trans (.setTag (by decide) _ _))
    | dispatch =>
      rw [exec_dispatch_live hf]
      refine leaves_completes_ending hi hf ?_ (.readTag (by decide) (by decide) (by decide) s)
      split
      · exact .head _
      · exact .tail _ (.head _)
    | decode => exact exec_decode_ending hf
    | recClear => rw [exec_recClear_live hf]; exact done (.head _) (.clearRec (.head _) s)
    | signrec =>
      rw [exec_signrec_live hf]
      split
      · exact faults _
      · split
        · exact faults _
        · exact done (.head _) (.setY0 (.head _) s _)
    | posrec =>
      refine leaves_whenLive_live hf ?_
      split
      · exact faults _
      · exact done (.head _) ((Footprint.setY0 (.head _) s _).trans (.setY1 (.tail _ (.head _)) _ _))
    | posrec27 =>
      refine leaves_whenLive_live hf ?_
      split
      · exact faults _
      · exact done (.head _) ((Footprint.setY0 (.head _) s _).trans (.setY1 (.tail _ (.head _)) _ _))
    | deg => rw [exec_deg_live hf]; exact done (.head _) (.setY0 (.head _) s _)
    | degmin =>
      rw [exec_degmin_live hf]
      exact done (.head _) ((Footprint.setY0 (.head _) s _).trans (.setY1 (.tail _ (.head _)) _ _))
    | ascii6 => rw [exec_ascii6_live hf]; exact done (.head _) (.setY0 (.head _) s _)
    | armor6 => rw [exec_armor6_live hf]; exact done (.head _) (.setY0 (.head _) s _)

/-! ### Who writes what -/

/-- Past its footprint a command changes LAST and the fault fields only. -/
theorem exec_keeps {i : Instr} {s t : State} (hi : i ≠ .reset) (h : exec i s = .next t) :
    ∃ u last fault cause, Footprint (partsWritten i) s u ∧
      t = { u with status := ⟨last, u.status.badchar, u.status.overflow, fault, cause⟩ } := by
  obtain hreset | - | ⟨-, -, k⟩ | ⟨-, -, -, hu⟩ := exec_ending i s t h
  · exact absurd hreset hi
  · exact ⟨s, _, _, _, .refl _ s, rfl⟩
  · exact ⟨s, _, _, _, .refl _ s, rfl⟩
  · exact ⟨_, _, _, _, hu, rfl⟩

theorem rs_writers {i : Instr} : .rs ∈ partsWritten i → i ∈ [.feed, .rsReset] := by
  cases i <;> simp [partsWritten]

theorem recs_writers {i : Instr} : .recs ∈ partsWritten i → i ∈ [.decode, .recClear] := by
  cases i <;> simp [partsWritten]

theorem tag_writers {i : Instr} : .tag ∈ partsWritten i → i ∈ [.dispatch, .decode, .rsReset] := by
  cases i <;> simp [partsWritten]

theorem y1_writers {i : Instr} : .y1 ∈ partsWritten i → i ∈ [.posrec, .posrec27, .degmin] := by
  cases i <;> simp [partsWritten]

theorem flags_writers {i : Instr} : .flags ∈ partsWritten i → i = .clrflags := by
  cases i <;> simp [partsWritten]

/-- The code of a command's completion (R205). -/
theorem code_of_mem_resultsOf {i : Instr} {r : ResultCode} (hr : r ∈ resultsOf i) : r.code.toNat ≤ 8 ∧
    if i = .feed then 1 ≤ r.code.toNat ∧ r.code.toNat ≤ 6
    else if i = .dispatch then r.code = 0#4 ∨ r.code = 7#4
    else if i = .decode then r.code = 0#4 ∨ r.code = 7#4 ∨ r.code = 8#4
    else r.code = 0#4 := by
  cases i <;> simp only [resultsOf, feedResults, List.mem_cons, List.not_mem_nil, or_false] at hr
  case feed => obtain rfl | rfl | rfl | rfl | rfl | rfl := hr <;> decide
  case dispatch => obtain rfl | rfl := hr <;> decide
  case decode => obtain rfl | rfl | rfl := hr <;> decide
  all_goals subst hr; simp [ResultCode.code]

/-! ### The obligations -/

/-- Settles O28: the cursor named, Y0 and STATUS are all its command's footprint leaves free. -/
theorem cursorCommandsTouchOnlyTheirCursor : Obligations.CursorCommandsTouchOnlyTheirCursor := by
  intro s t i c hi h
  have hreset : i ≠ .reset := by rintro rfl; simp at hi
  have hparts : ∀ p ∈ partsWritten i, p = .cursor c ∨ p = .y0 := by
    simp only [List.mem_cons, List.not_mem_nil, or_false] at hi
    obtain (rfl | rfl | rfl | rfl) | ⟨n, rfl | rfl⟩ | ⟨rfl, rfl⟩ := hi <;> simp [partsWritten]
  obtain ⟨u, last, fault, cause, hu, rfl⟩ := exec_keeps hreset h
  have heq := congrArg (fun v : State => { v with status := ⟨last, u.status.badchar, u.status.overflow, fault, cause⟩ })
    (hu.eq_setCursor hparts)
  cases c <;> exact heq

/-- Settles O55: neither Y register is in the footprints named. -/
theorem onlySomeCommandsWriteTheResultRegisters : Obligations.OnlySomeCommandsWriteTheResultRegisters := by
  intro i s t h
  by_cases hi : i = .reset
  · subst hi
    simp
  obtain ⟨u, last, fault, cause, hu, rfl⟩ := exec_keeps hi h
  refine ⟨fun hw => hu.y1 fun hy => hw (.tail _ (y1_writers hy)), fun hw => ?_⟩
  have hneither : .y0 ∉ partsWritten i ∧ .y1 ∉ partsWritten i := by
    simp only [List.mem_cons, List.not_mem_nil, or_false] at hw
    obtain (rfl | rfl | rfl | rfl | rfl | rfl) | ⟨c, rfl | rfl | rfl⟩ := hw <;> simp [partsWritten]
  exact ⟨hu.y0 hneither.1, hu.y1 hneither.2⟩

/-- Settles O56: each part is in the footprints of its writers only. -/
theorem eachStateElementHasItsWriters : Obligations.EachStateElementHasItsWriters := by
  intro i s t h hi
  obtain ⟨u, last, fault, cause, hu, rfl⟩ := exec_keeps hi h
  refine ⟨fun hw => hu.rs (mt rs_writers hw), fun hw j => ?_, fun hw => hu.tag (mt tag_writers hw), fun j => ?_,
    hu.argA, hu.argB, hu.lineLen, hu.host⟩
  · simp only [State.recWord, hu.recMem (mt recs_writers hw), hu.resets]
  · simp only [State.lineByte, hu.lineMem, hu.resets]

/-- Settles O57: a command that completes leaves a code of its own, one that faults 15. -/
theorem eachCommandHasItsResultCodes : Obligations.EachCommandHasItsResultCodes := by
  intro i s t hlive h
  obtain rfl | ⟨-, hf⟩ | ⟨-, -, k⟩ | @⟨-, -, u, r, hr, hu⟩ := exec_ending i s t h
  · simp [Status.clear]
  · simp [hlive] at hf
  · exact ⟨by simp [State.raiseFault, ResultCode.code], fun hf => by cases hf⟩
  · obtain ⟨hle, hcode⟩ := code_of_mem_resultsOf hr
    have hne : r.code ≠ 15#4 := fun h => by rw [h] at hle; exact absurd hle (by decide)
    exact ⟨by simpa [hu.live hlive] using hne, fun _ => hcode⟩

/-- Settles O58: only CLRFLAGS has the clearing of the flags in its footprint. -/
theorem stickyFlagsStaySet : Obligations.StickyFlagsStaySet := by
  intro i s t h hclr hi
  obtain ⟨u, last, fault, cause, hu, rfl⟩ := exec_keeps hi h
  exact ⟨hu.badchar (mt flags_writers hclr), hu.overflow (mt flags_writers hclr)⟩

end Sys2Proof.Machine
end

section
/-! SUPPORT. The step (spec/20_memory.md R39 to R42, spec/30_encoding.md R57): the words the register map names, what a
step of each event is, and everything a step can do. -/

namespace Sys2Proof.Machine

/-! ### The register map (spec/10_state.md R33) -/

/-- The word exists in a block of this configuration: an array's element is below its size. -/
def Port.Inside (c : Config) : Port → Prop
  | .line i => i < c.lineCap
  | .curBuf _ i => i < c.capChars
  | .recWord i => i < c.recWords
  | _ => True

theorem windowIndex_eq_some_iff {lo n off i : Nat} (hlo : lo % 4 = 0) :
    windowIndex lo n off = some i ↔ i < n ∧ off = lo + 4 * i := by
  unfold windowIndex
  split
  · rw [Option.some.injEq]; omega
  · simp only [reduceCtorEq, false_iff]; omega

theorem windowIndex_at (lo : Nat) {n i : Nat} (hi : i < n) (hlo : lo % 4 = 0 := by decide) :
    windowIndex lo n (lo + 4 * i) = some i := (windowIndex_eq_some_iff hlo).mpr ⟨hi, rfl⟩

theorem windowIndex_eq_none {lo n off : Nat} (h : ¬ (lo ≤ off ∧ off < lo + 4 * n)) : windowIndex lo n off = none :=
  if_neg fun hin => h ⟨hin.1, hin.2.1⟩

/-- The registers lie below the arrays. -/
theorem offset_lt_of_register : ∀ p ∈ registerPorts, p.offset < 0x1000 := by decide

theorem inside_of_register (c : Config) : ∀ p ∈ registerPorts, p.Inside c := by
  simp [registerPorts, Port.Inside]

/-- Past the registers an offset is looked for in one window after the other. -/
theorem portAt_of_not_register {c : Config} {off : Nat} (h : ∀ p ∈ registerPorts, p.offset ≠ off) : portAt c off =
    ((windowIndex 0x1000 c.lineCap off).map .line).or (((windowIndex 0x2000 c.capChars off).map (.curBuf .c0)).or
      (((windowIndex 0x3000 c.capChars off).map (.curBuf .c1)).or
        ((windowIndex 0x4000 c.recWords off).map .recWord))) := by
  have hfind : registerPorts.find? (fun p => p.offset == off) = none :=
    List.find?_eq_none.mpr fun p hp => by simpa using h p hp
  unfold portAt
  rw [hfind]
  cases windowIndex 0x1000 c.lineCap off <;> cases windowIndex 0x2000 c.capChars off <;>
    cases windowIndex 0x3000 c.capChars off <;> rfl

theorem not_register_of_array {off : Nat} (h : 0x1000 ≤ off) : ∀ p ∈ registerPorts, p.offset ≠ off := by
  intro p hp
  have := offset_lt_of_register p hp
  omega

/-- The sizes of a well-formed configuration keep the windows apart (spec/00_scope.md R8). -/
theorem Config.sizes_le {c : Config} (h : c.wf = true) : c.lineCap ≤ 1024 ∧ c.capChars ≤ 1024 ∧ c.recWords ≤ 1024 := by
  simp only [Config.wf, Bool.and_eq_true, decide_eq_true_eq] at h
  omega

/-- The map names a word by its offset. -/
theorem portAt_offset {c : Config} (hwf : c.wf = true) {p : Port} (hp : p.Inside c) : portAt c p.offset = some p := by
  obtain ⟨hline, hchars, hrec⟩ := Config.sizes_le hwf
  cases p with
  | line i =>
    have hoff : (Port.line i).offset = 0x1000 + 4 * i := rfl
    rw [hoff, portAt_of_not_register (not_register_of_array (by omega)), windowIndex_at 0x1000 hp]
    rfl
  | curBuf d i =>
    have hi : i < c.capChars := hp
    cases d with
    | c0 =>
      have hoff : (Port.curBuf .c0 i).offset = 0x2000 + 4 * i := rfl
      rw [hoff, portAt_of_not_register (not_register_of_array (by omega)),
        windowIndex_eq_none (lo := 0x1000) (by omega), windowIndex_at 0x2000 hi]
      rfl
    | c1 =>
      have hoff : (Port.curBuf .c1 i).offset = 0x3000 + 4 * i := rfl
      rw [hoff, portAt_of_not_register (not_register_of_array (by omega)),
        windowIndex_eq_none (lo := 0x1000) (by omega), windowIndex_eq_none (lo := 0x2000) (by omega),
        windowIndex_at 0x3000 hi]
      rfl
  | recWord i =>
    have hoff : (Port.recWord i).offset = 0x4000 + 4 * i := rfl
    rw [hoff, portAt_of_not_register (not_register_of_array (by omega)), windowIndex_eq_none (lo := 0x1000) (by omega),
      windowIndex_eq_none (lo := 0x2000) (by omega), windowIndex_eq_none (lo := 0x3000) (by omega),
      windowIndex_at 0x4000 hp]
    rfl
  | curPos d | curLen d | curRem d => cases d <;> rfl
  | _ => rfl

/-- A word the map names has that offset and exists. -/
theorem offset_of_portAt {c : Config} {off : Nat} {p : Port} (h : portAt c off = some p) :
    p.offset = off ∧ p.Inside c := by
  by_cases hreg : ∃ q ∈ registerPorts, q.offset = off
  · obtain ⟨q, hq⟩ : ∃ q, registerPorts.find? (fun p => p.offset == off) = some q := by
      simpa [← Option.isSome_iff_exists] using hreg
    have hqp : q = p := by unfold portAt at h; rw [hq] at h; exact Option.some.inj h
    rw [← hqp]
    exact ⟨by simpa using List.find?_some hq, inside_of_register c q (List.mem_of_find?_eq_some hq)⟩
  · rw [portAt_of_not_register (by simpa using hreg)] at h
    simp only [Option.or_eq_some_iff, Option.map_eq_some_iff, windowIndex_eq_some_iff, Nat.reduceMod] at h
    obtain ⟨i, ⟨hi, rfl⟩, rfl⟩ | ⟨-, ⟨i, ⟨hi, rfl⟩, rfl⟩ | ⟨-, ⟨i, ⟨hi, rfl⟩, rfl⟩ | ⟨-, i, ⟨hi, rfl⟩, rfl⟩⟩⟩ := h
    all_goals exact ⟨rfl, hi⟩

/-- An access names a word exactly where it is four bytes wide at BASE plus the word's offset (R40, R41, R46). -/
theorem locate_eq_ok_iff {c : Config} (hwf : c.wf = true) {addr width : Nat} {p : Port} :
    locate c addr width = .ok p ↔ width = 4 ∧ addr = c.base + p.offset ∧ p.Inside c := by
  have halign : p.offset % 4 = 0 := by
    cases p with
    | line i | recWord i => simp only [Port.offset]; omega
    | curBuf d i => cases d <;> simp only [Port.offset] <;> omega
    | curPos d | curLen d | curRem d => cases d <;> rfl
    | _ => rfl
  constructor
  · intro h
    unfold locate at h
    split at h
    · cases h
    next hw =>
      split at h
      · cases h
      next hbase =>
        split at h
        · cases h
        · split at h
          next q hq =>
            cases h
            obtain ⟨hoff, hin⟩ := offset_of_portAt hq
            exact ⟨by omega, by omega, hin⟩
          · cases h
  · rintro ⟨rfl, rfl, hin⟩
    simp [locate, portAt_offset hwf hin, halign]

/-! ### The step of each event -/

section Pending
variable {s : State} (hwf : s.cfg.wf = true)
include hwf

theorem step_pending {e : Event} {rest : List Event} (hp : s.host.pending = e :: rest) :
    step s = perform e (s.popped rest) := by
  simp [step, hwf, runNext, hp]

theorem step_idle (hp : s.host.pending = []) : step s = .next s := by
  simp [step, hwf, runNext, hp]

/-- A read of a word (R42). -/
theorem step_read {p : Port} (hin : p.Inside s.cfg) {rest : List Event}
    (hp : s.host.pending = .read (s.cfg.base + p.offset) 4 :: rest) :
    step s = .next ((s.popped rest).advance.hostRead p) := by
  rw [step_pending hwf hp]
  simp [perform, (locate_eq_ok_iff hwf).mpr ⟨rfl, rfl, hin⟩]

/-- A write to a word other than CMD (R34). -/
theorem step_write {p : Port} (hin : p.Inside s.cfg) (hcmd : p ≠ .cmd) {rest : List Event} {v : Word}
    (hp : s.host.pending = .write (s.cfg.base + p.offset) 4 v :: rest) :
    step s = .next ((s.popped rest).advance.hostWrite p v) := by
  rw [step_pending hwf hp]
  unfold perform
  simp only [State.popped_cfg, (locate_eq_ok_iff hwf).mpr ⟨rfl, rfl, hin⟩]

/-- An access that names no word stops the host (R40, R41). -/
theorem step_fault {addr width : Nat} {v : Word} {rest : List Event} {f : Fault}
    (hp : s.host.pending = .read addr width :: rest ∨ s.host.pending = .write addr width v :: rest)
    (hloc : locate s.cfg addr width = .error f) : step s = .fault f := by
  obtain hp | hp := hp <;> simp [step_pending hwf hp, perform, hloc]

end Pending

/-- Everything a step can do (R15): nothing, a hardware reset, a read, a write of a word other than CMD, or a write of a
command word. -/
inductive Stepped (s : State) : State → Prop
  | idle (hp : s.host.pending = []) : Stepped s s
  | hwReset {rest : List Event} (hp : s.host.pending = .hwReset :: rest) : Stepped s (s.popped rest).resetBlock
  | read {rest : List Event} (p : Port) : Stepped s ((s.popped rest).advance.hostRead p)
  | write {rest : List Event} (p : Port) (hin : p.Inside s.cfg) (v : Word) :
    Stepped s ((s.popped rest).advance.hostWrite p v)
  | command {rest : List Event} {w : Word} (hp : s.host.pending = .write s.cfg.base 4 w :: rest) {t : State}
      (ht : issue w (s.popped rest).advance = .next t) : Stepped s t

theorem step_stepped {s t : State} (h : step s = .next t) : s.cfg.wf = true ∧ Stepped s t := by
  have hwf : s.cfg.wf = true := by
    by_contra hwf
    simp [step, hwf] at h
  refine ⟨hwf, ?_⟩
  cases hp : s.host.pending with
  | nil =>
    rw [step_idle hwf hp] at h
    cases h
    exact .idle hp
  | cons e rest =>
    rw [step_pending hwf hp] at h
    cases e with
    | hwReset =>
      cases h
      exact .hwReset hp
    | read addr width =>
      unfold perform at h
      dsimp only at h
      split at h
      · cases h
      next p _ =>
        cases h
        exact .read p
    | write addr width v =>
      unfold perform at h
      dsimp only at h
      split at h
      · cases h
      next hloc =>
        obtain ⟨rfl, rfl, -⟩ := (locate_eq_ok_iff hwf).mp hloc
        exact .command hp h
      next p _ hloc =>
        cases h
        exact .write p ((locate_eq_ok_iff hwf).mp hloc).2.2 v

/-- A word written to CMD is a command that runs, or an illegal word that a faulted block ignores (R57, R209). -/
theorem issue_ending {w : Word} {s t : State} (h : issue w s = .next t) :
    (∃ i, decode w = .ok i ∧ Ending i s t) ∨ (s.status.fault = true ∧ t = s) ∨
      (s.status.fault = false ∧ ∃ k, t = s.raiseFault k) := by
  unfold issue at h
  split at h
  next i hi => exact .inl ⟨i, hi, exec_ending i s t h⟩
  next e _ =>
    obtain ⟨hf, rfl⟩ | ⟨hf, h⟩ := whenLive_next h
    · exact .inr (.inl ⟨hf, rfl⟩)
    · cases h
      exact .inr (.inr ⟨hf, _, rfl⟩)

/-! ### What every step keeps -/

theorem State.hostWrite_cfg (s : State) (p : Port) (v : Word) : (s.hostWrite p v).cfg = s.cfg := by
  cases p <;> simp [State.hostWrite]

theorem State.hostWrite_status (s : State) (p : Port) (v : Word) : (s.hostWrite p v).status = s.status := by
  cases p <;> simp [State.hostWrite]

theorem State.hostWrite_inv {s : State} (h : s.Inv) {p : Port} (hin : p.Inside s.cfg) (v : Word) :
    (s.hostWrite p v).Inv := by
  cases p with
  | line i => exact ⟨h.c0, h.c1, h.rs, h.status, h.line.put _ hin, h.recs⟩
  | recWord i =>
    have hput : s.hostWrite (.recWord i) v = { s with recMem := s.recMem.put i v } := if_pos hin
    rw [hput]
    exact ⟨h.c0, h.c1, h.rs, h.status, h.line, h.recs.put v hin⟩
  | argA | argB | lineLen => exact ⟨h.c0, h.c1, h.rs, h.status, h.line, h.recs⟩
  | _ => exact h

theorem Status.clear_sound : Status.clear.Sound := ⟨fun _ => ⟨by decide, rfl⟩, fun h => by cases h⟩

theorem State.resetBlock_inv (s : State) : s.resetBlock.Inv :=
  ⟨Cursor.empty_sound _, Cursor.empty_sound _, Rs.idle_sound, Status.clear_sound, .nil _, .nil _⟩

theorem FaultCause.code_bounds (k : FaultCause) : 1 ≤ k.code.toNat ∧ k.code.toNat ≤ 5 := by
  cases k <;> decide

/-- A fault holds LAST 15 and one of the five causes (R207, R208). -/
theorem State.raiseFault_inv {s : State} (h : s.Inv) (k : FaultCause) : (s.raiseFault k).Inv :=
  ⟨h.c0, h.c1, h.rs, ⟨(fun hf => by cases hf), fun _ => ⟨rfl, k.code_bounds⟩⟩, h.line, h.recs⟩

theorem Ending.cfg {i : Instr} {s t : State} (h : Ending i s t) : t.cfg = s.cfg := by
  cases h with
  | reset | ignored | faults => rfl
  | completes _ _ _ hu => exact hu.cfg

theorem Ending.inv {i : Instr} {s t : State} (h : Ending i s t) (hs : s.Inv) : t.Inv := by
  cases h with
  | reset => exact s.resetBlock_inv
  | ignored => exact hs
  | faults _ _ k => exact State.raiseFault_inv hs k
  | completes _ hlive hr hu =>
    obtain ⟨h0, h1, hrs, hst, hline, hrecs⟩ := hu.inv hs
    have hu := hu.live hlive
    exact ⟨h0, h1, hrs, ⟨fun _ => ⟨(code_of_mem_resultsOf hr).1, (hst.live hu).2⟩, fun hf => absurd hf (by simp [hu])⟩,
      hline, hrecs⟩

/-- The registers but CMD and the operands (R33). -/
def readOnlyRegisters : List Port := registerPorts.drop 4

theorem readOnlyRegisters_ignore (c : Config) : ∀ p ∈ readOnlyRegisters,
    p.Inside c ∧ p ≠ .cmd ∧ ∀ (s : State) (v : Word), s.hostWrite p v = s := by
  simp [readOnlyRegisters, registerPorts, Port.Inside, State.hostWrite]

/-! ### The words a read returns (R30, R33) -/

theorem extractLsb'_lo (y : DWord) : y.extractLsb' 0 32 = BitVec.ofNat 32 (y.toNat % 2 ^ 32) := by
  apply BitVec.eq_of_toNat_eq
  rw [BitVec.extractLsb'_toNat, Nat.shiftRight_zero, BitVec.toNat_ofNat, Nat.mod_mod]

theorem extractLsb'_hi (y : DWord) : y.extractLsb' 32 32 = BitVec.ofNat 32 (y.toNat / 2 ^ 32) := by
  apply BitVec.eq_of_toNat_eq
  rw [BitVec.extractLsb'_toNat, Nat.shiftRight_eq_div_pow, BitVec.toNat_ofNat]

theorem setWidth_eq_ofNat {w : Nat} (x : BitVec w) : x.setWidth 32 = BitVec.ofNat 32 x.toNat :=
  (BitVec.ofNat_toNat 32 x).symm

theorem State.statusWord_eq (s : State) : s.statusWord =
    BitVec.ofNat 32 (s.status.last.toNat + 2 ^ 8 * s.status.badchar.toNat + 2 ^ 9 * s.status.overflow.toNat +
      2 ^ 12 * s.rs.inProgress.toNat + 2 ^ 16 * s.status.fault.toNat + 2 ^ 20 * s.status.faultCause.toNat) := by
  have hb (b : Bool) : b.toNat < 2 := b.toNat_lt
  apply BitVec.eq_of_toNat_eq
  simp only [State.statusWord, toNat_append_eq_add, BitVec.toNat_ofBool, BitVec.toNat_ofNat]
  have := hb s.status.badchar; have := hb s.status.overflow; have := hb s.rs.inProgress; have := hb s.status.fault
  omega

theorem Cursor.remWord_eq (c : Cursor) : c.remWord = BitVec.ofNat 32 (c.rem.toNat + 2 ^ 8 * c.remBits.toNat) := by
  apply BitVec.eq_of_toNat_eq
  simp only [Cursor.remWord, toNat_append_eq_add, BitVec.toNat_ofNat]
  omega

/-- A read of a word that takes no draw (R42). -/
theorem step_read_word {s : State} (hwf : s.cfg.wf = true) {p : Port} (hin : p.Inside s.cfg)
    (hdraw : s.drawsAt p = false) {rest : List Event} (hp : s.host.pending = .read (s.cfg.base + p.offset) 4 :: rest) :
    step s = .next { s with
      host := { pending := rest, position := s.host.position + 1, reads := s.portWord p :: s.host.reads } } := by
  have hdraw' : (s.popped rest).advance.drawsAt p = false := by
    cases p with
    | curBuf d i => exact hdraw
    | _ => rfl
  have hword : (s.popped rest).advance.portWord p = s.portWord p := by
    cases p with
    | curPos d | curLen d | curRem d | curBuf d i => cases d <;> rfl
    | _ => rfl
  rw [step_read hwf hin hp, State.hostRead, hdraw', hword]
  rfl

/-! ### The obligations -/

/-- Settles O14: a command ends inside its footprint or in a fault; the other steps write arrays and operands only. -/
theorem everyStepKeepsTheInvariant : Obligations.EveryStepKeepsTheInvariant := by
  intro s t hs h
  obtain ⟨hwf, hstep⟩ := step_stepped h
  have hpop (rest : List Event) : (s.popped rest).advance.Inv := ⟨hs.c0, hs.c1, hs.rs, hs.status, hs.line, hs.recs⟩
  cases hstep with
  | idle => exact hs
  | hwReset => exact State.resetBlock_inv _
  | read p => exact ⟨hs.c0, hs.c1, hs.rs, hs.status, hs.line, hs.recs⟩
  | @write rest p hin v => exact State.hostWrite_inv (hpop rest) hin v
  | command hp ht =>
    obtain ⟨i, -, hend⟩ | ⟨-, rfl⟩ | ⟨-, k, rfl⟩ := issue_ending ht
    · exact hend.inv (hpop _)
    · exact hpop _
    · exact State.raiseFault_inv (hpop _) k

/-- Settles O13: only `State.cfg` is never written. -/
theorem configurationIsCheckedAndFixed : Obligations.ConfigurationIsCheckedAndFixed := by
  intro s
  refine ⟨fun hwf => by simp [step, hwf], step_idle, fun t h => ?_⟩
  obtain ⟨-, hstep⟩ := step_stepped h
  cases hstep with
  | idle | hwReset | read => rfl
  | write p _ v => exact State.hostWrite_cfg _ p v
  | command _ ht =>
    obtain ⟨i, -, hend⟩ | ⟨-, rfl⟩ | ⟨-, k, rfl⟩ := issue_ending ht
    · exact hend.cfg
    · rfl
    · rfl

/-- Settles O8: a faulted block ignores every command but RESET, and reads and writes keep STATUS. -/
theorem onlyResetEndsAFault : Obligations.OnlyResetEndsAFault := by
  intro s t h hf
  obtain ⟨-, hstep⟩ := step_stepped h
  cases hstep with
  | idle | read => exact .inl rfl
  | hwReset hp => exact .inr ⟨rfl, .inl (by rw [hp]; rfl)⟩
  | write p _ v => exact .inl (State.hostWrite_status _ p v)
  | command hp ht =>
    obtain ⟨i, hi, hend⟩ | ⟨-, rfl⟩ | ⟨hlive, -⟩ := issue_ending ht
    · cases hend with
      | reset hreset =>
        have hw := (encodeDecodeRoundTrip _ i hi).1
        rw [hreset] at hw
        exact .inr ⟨rfl, .inr (by rw [hp, ← hw]; rfl)⟩
      | ignored => exact .inl rfl
      | faults _ hlive | completes _ hlive => exact absurd hf (by simpa using hlive)
    · exact .inl rfl
    · exact absurd hf (by simpa using hlive)

/-- Settles O9: the table is the register map with the word of each register. -/
theorem hostReadsEveryRegister : Obligations.HostReadsEveryRegister := by
  intro s rest off w hwf hp hmem
  obtain ⟨p, hreg, hpw⟩ : ∃ p ∈ registerPorts, (p.offset, s.portWord p) = (off, w) := by
    rw [← List.mem_map]
    simpa only [registerPorts, List.map_cons, List.map_nil, Port.offset, State.portWord, State.cursor, extractLsb'_lo,
      extractLsb'_hi, setWidth_eq_ofNat, State.statusWord_eq, Cursor.remWord_eq, Cursor.bufLen] using hmem
  obtain ⟨rfl, rfl⟩ := Prod.mk.injEq .. ▸ hpw
  refine step_read_word hwf (inside_of_register _ p hreg) ?_ hp
  revert p; simp [registerPorts, State.drawsAt]

/-- Settles O10: an element is the word of its port, and past BUF_LEN the word is a draw. -/
theorem hostReadsEveryArrayElement : Obligations.HostReadsEveryArrayElement := by
  intro s rest off i c hwf hp after window
  have hwin : window + 4 * i = (Port.curBuf c i).offset := by cases c <;> rfl
  refine ⟨?_, ?_, ?_, ?_⟩
  · rintro rfl hi
    rw [step_read_word hwf (p := .line i) hi rfl hp, State.portWord, setWidth_eq_ofNat]
  · rintro rfl hi
    exact step_read_word hwf (p := .recWord i) hi rfl hp
  · rintro hlt rfl hi
    rw [hwin] at hp
    rw [step_read_word hwf (p := .curBuf c i) hi (decide_eq_false (Nat.not_le.mpr hlt)) hp, State.portWord,
      List.getElem?_eq_getElem hlt, setWidth_eq_ofNat]
    rfl
  · rintro hle rfl hi
    rw [hwin] at hp
    have hcur : (s.popped rest).advance.cursor c = s.cursor c := by cases c <;> rfl
    have hdraw : (s.popped rest).advance.drawsAt (.curBuf c i) = true := by
      rw [State.drawsAt, hcur]; exact decide_eq_true hle
    have hword : (s.popped rest).advance.portWord (.curBuf c i) =
        BitVec.ofNat 32 (Config.freeBufByte s.draws).toNat := by
      rw [State.portWord, hcur, List.getElem?_eq_none hle, setWidth_eq_ofNat]; rfl
    refine ⟨Config.freeBufByte s.draws, ?_⟩
    rw [step_read hwf (p := .curBuf c i) hi hp, State.hostRead, hdraw, hword]
    rfl

/-- Settles O11: each port's write is what `hostWrite` says, and an array keeps its other elements. -/
theorem hostWritesEveryWord : Obligations.HostWritesEveryWord := by
  intro s rest off i v hwf hp u
  have hwrite (p : Port) (hoff : off = p.offset) (hin : p.Inside s.cfg) (hcmd : p ≠ .cmd) :
      step s = .next (u.hostWrite p v) := by
    rw [hoff] at hp
    exact step_write hwf hin hcmd hp
  refine ⟨?_, ?_, ?_, ?_, ?_, ?_⟩
  · exact fun h => hwrite .argA h trivial (by simp)
  · exact fun h => hwrite .argB h trivial (by simp)
  · exact fun h => hwrite .lineLen h trivial (by simp)
  · intro h hi
    have hbyte : v.extractLsb' 0 8 = BitVec.ofNat 8 (v.toNat % 256) := by
      apply BitVec.eq_of_toNat_eq
      rw [BitVec.extractLsb'_toNat, Nat.shiftRight_zero, BitVec.toNat_ofNat, Nat.mod_mod]
    exact ⟨_, hwrite (.line i) h hi (by simp), rfl, fun j => hbyte ▸ u.lineByte_putLine i j _⟩
  · intro h hi
    have hput : u.hostWrite (.recWord i) v = { u with recMem := u.recMem.put i v } := if_pos hi
    refine ⟨_, hwrite (.recWord i) h hi (by simp), by rw [hput], fun j => ?_⟩
    exact (u.recWord_putRec i j v).trans (if_congr (and_iff_left hi) rfl rfl)
  · rintro (hreg | ⟨hbuf, hi⟩)
    · obtain ⟨p, hmem, rfl⟩ : ∃ p ∈ readOnlyRegisters, p.offset = off := List.mem_map.mp hreg
      obtain ⟨hin, hcmd, hsame⟩ := readOnlyRegisters_ignore s.cfg p hmem
      rw [hwrite p rfl hin hcmd, hsame]
    · obtain h | h := hbuf
      · exact hwrite (.curBuf .c0 i) h hi (by simp)
      · exact hwrite (.curBuf .c1 i) h hi (by simp)

/-- Settles O12: `locate` tests the width, BASE, the alignment and the map in this order. -/
theorem otherAccessesHaveNoStep : Obligations.OtherAccessesHaveNoStep := by
  intro s rest addr width v hwf hp off
  have hfault {f : Fault} (hloc : locate s.cfg addr width = .error f) : step s = .fault f := step_fault hwf hp hloc
  refine ⟨fun hw => hfault ?_, fun hw hbase => hfault ?_, fun hw hbase halign => hfault ?_,
    fun hw hbase halign hreg h1 h2 h3 h4 => hfault ?_⟩
  · simp [locate, hw]
  · simp [locate, hw, hbase]
  · simp [locate, hw, Nat.not_lt.mpr hbase, halign, off]
  · have hnot : ∀ p ∈ registerPorts, p.offset ≠ off := fun p hp hoff => hreg (hoff ▸ List.mem_map_of_mem hp)
    have hnone : portAt s.cfg off = none := by
      rw [portAt_of_not_register hnot, windowIndex_eq_none h1, windowIndex_eq_none h2, windowIndex_eq_none h3,
        windowIndex_eq_none h4]
      rfl
    simp [locate, hw, Nat.not_lt.mpr hbase, halign, hnone, off]

/-- Settles O7: a word that is no command and a command but RESET are ignored alike. -/
theorem faultedBlockIgnoresEveryWordButReset : Obligations.FaultedBlockIgnoresEveryWordButReset := by
  intro s v rest hwf hp hf
  rw [step_write_cmd hwf hp]
  have hf' : (s.popped rest).advance.status.fault = true := hf
  refine ⟨fun hv => ?_, fun hv => ⟨_, by rw [hv]; rfl, rfl⟩⟩
  unfold issue
  cases hd : decode v with
  | error e => exact whenLive_faulted hf' _
  | ok i =>
    refine exec_faulted ?_ hf'
    rintro rfl
    exact hv (encodeDecodeRoundTrip v .reset hd).1.symm

/-- Settles O5: `step` is `issue`, `issue` of a word that decodes is `exec`, and the word of a command decodes to it. -/
theorem stepExecutesTheWrittenCommand : Obligations.StepExecutesTheWrittenCommand := by
  have hissue (s : State) (v : Word) (i : Instr) (hd : decode v = .ok i) : issue v s = exec i s := by
    simp [issue, hd]
  refine ⟨fun s v rest i hwf hp hd => ?_, fun s i hwf hi => ?_⟩
  · rw [step_write_cmd hwf hp, hissue _ v i hd]
    rfl
  · have hword : BitVec.ofNat 32 ((encode i).toNat % 2 ^ 32) = encode i := by
      rw [Nat.mod_eq_of_lt (encode i).isLt, BitVec.ofNat_toNat, BitVec.setWidth_eq]
    have hp : (s.withFetchWord 32 (encode i).toNat).host.pending =
        .write (s.withFetchWord 32 (encode i).toNat).cfg.base 4 (encode i) :: s.host.pending := by
      rw [State.withFetchWord, pushFetchWord, hword]; rfl
    rw [step_write_cmd (s := s.withFetchWord 32 (encode i).toNat) hwf hp, hissue _ _ i (decodeEncodeRoundTrip i hi)]
    rfl

/-- Settles O6: a live block raises the cause of the decoder's error, which writes the fault fields only. -/
theorem illegalWordWritesTheFaultFieldsOnly : Obligations.IllegalWordWritesTheFaultFieldsOnly := by
  intro s v rest e hwf hp hd hlive
  rw [step_write_cmd hwf hp, issue_illegal (by simpa using hlive) hd]
  cases e <;> rfl

/-- Settles O15: each part holds a value that is sound in itself. -/
theorem resetMeetsTheInvariant : Obligations.ResetMeetsTheInvariant :=
  ⟨Cursor.empty_sound _, Cursor.empty_sound _, Rs.idle_sound, Status.clear_sound, .nil _, .nil _⟩

/-- Settles O16: both are `resetBlock` of the state with the event taken. -/
theorem bothResetsLeaveTheResetValues : Obligations.BothResetsLeaveTheResetValues := by
  intro s rest hwf hp
  obtain hp | hp := hp
  · refine ⟨(s.popped rest).resetBlock, by rw [step_pending hwf hp]; rfl, ?_⟩
    exact ⟨rfl, rfl, rfl, rfl, rfl, rfl, rfl, rfl, rfl, rfl, rfl, rfl, rfl, rfl, rfl, rfl, rfl, rfl, rfl⟩
  · refine ⟨(s.popped rest).advance.resetBlock, by rw [step_write_cmd hwf hp]; rfl, ?_⟩
    exact ⟨rfl, rfl, rfl, rfl, rfl, rfl, rfl, rfl, rfl, rfl, rfl, rfl, rfl, rfl, rfl, rfl, rfl, rfl, rfl⟩

end Sys2Proof.Machine
end

section
/-! SUPPORT. The fetch commands' statements (spec/40_bitcursor.md R107 to R114, R118): a fetch of valid characters takes
no draw, a fetch past the end gives zero bits, and fetches in a row give the stream. -/

namespace Sys2Proof.Machine

/-! ### A fetch of valid characters (R110) -/

/-- Valid characters take no draw and raise no BADCHAR. -/
theorem FetchRun.quiet {need r : Nat} {f : FetchSt} {q : Nat × FetchSt} (h : FetchRun need r f q) {bs : List Bool}
    (hbs : charsBits (f.cur.buf.drop f.cur.pos) = some bs) : q.2.draws = f.draws ∧ q.2.badchar = f.badchar := by
  induction h generalizing bs with
  | full | underrun => exact ⟨rfl, rfl⟩
  | @whole need r f ch q hch hneed hrun ih =>
    obtain ⟨g, gs, hg, hgs, -⟩ := charsBits_drop_eq_some hch hbs
    have hpull : (f.pull ch).2 = { f with cur := { f.cur with pos := f.cur.pos + 1 } } := by
      rw [FetchSt.pull, group_valid hg]
    obtain ⟨hd, hb⟩ := ih (bs := gs) (by simpa using hgs)
    exact ⟨by rw [hd, hpull], by rw [hb, hpull]⟩
  | @part need r f ch hch hpos hneed =>
    obtain ⟨g, gs, hg, -, -⟩ := charsBits_drop_eq_some hch hbs
    rw [FetchSt.pull, group_valid hg]
    exact ⟨rfl, rfl⟩

theorem fetchBits_quiet {cap : Nat} {f : FetchSt} (h : f.cur.Sound cap) {bs : List Bool} (hbs : f.cur.bits = some bs)
    (n : Nat) : (fetchBits n f).2.draws = f.draws ∧ (fetchBits n f).2.badchar = f.badchar := by
  obtain ⟨cs, hcs, -⟩ := Cursor.bits_eq_some_iff.mp hbs
  obtain ⟨-, hrun⟩ | ⟨-, heq⟩ := fetchBits_cases h n
  · exact hrun.quiet hcs
  · rw [heq]; exact ⟨rfl, rfl⟩

/-- Where the characters left are valid, a fetch changes its cursor only. -/
theorem State.fetch_eq_setCursor {cap : Nat} {s : State} {c : CursorSel} (h : (s.cursor c).Sound cap) {bs : List Bool}
    (hbs : (s.cursor c).bits = some bs) (n : Nat) : (s.fetch c n).2 = s.setCursor c ((s.fetch c n).2.cursor c) := by
  obtain ⟨hd, hb⟩ := fetchBits_quiet (f := s.fetchSt c) h hbs n
  have hdraws : (s.fetch c n).2.draws = s.draws := hd
  have hbad : (s.fetch c n).2.status.badchar = s.status.badchar := hb
  conv => lhs; rw [(s.fetch_frame c n).rest, hdraws, hbad]
  cases c <;> rfl

/-! ### A fetch past the end (R112) -/

/-- The bits past the last character are zero. -/
theorem FetchRun.dvd_of_underrun {need r : Nat} {f : FetchSt} {q : Nat × FetchSt} (h : FetchRun need r f q)
    (hrem : f.cur.remBits = 0#3) (hlen : f.cur.length < need) : 2 ^ (need - f.cur.length) ∣ q.1 := by
  induction h with
  | full => simp at hlen
  | @underrun need r f hch =>
    exact (pow_dvd_pow 2 (Nat.sub_le ..)).trans (Dvd.intro_left r rfl)
  | @whole need r f ch q hch hneed hrun ih =>
    obtain ⟨hlt, -⟩ := List.getElem?_eq_some_iff.mp hch
    have hnext : (f.pull ch).2.cur.length = f.cur.length - 6 ∧ 6 ≤ f.cur.length := by
      simp only [Cursor.length, Cursor.bufLen, FetchSt.pull_cur, hrem, BitVec.toNat_ofNat]
      omega
    have := ih (by simpa using hrem) (by omega)
    rwa [hnext.1, show need - 6 - (f.cur.length - 6) = need - f.cur.length by omega] at this
  | @part need r f ch hch hpos hneed =>
    obtain ⟨hlt, -⟩ := List.getElem?_eq_some_iff.mp hch
    simp only [Cursor.length, Cursor.bufLen] at hlen
    omega

theorem State.fetch_dvd_of_underrun {cap : Nat} {s : State} {c : CursorSel} (h : (s.cursor c).Sound cap) {n : Nat}
    (hlen : (s.cursor c).length < n) : 2 ^ (n - (s.cursor c).length) ∣ (s.fetch c n).1 := by
  have hfst : (s.fetch c n).1 = (fetchBits n (s.fetchSt c)).1 := rfl
  have hcur : (s.cursor c).length = (s.fetchSt c).cur.length := rfl
  rw [hfst, hcur]
  rw [hcur] at hlen
  have hsum : (s.fetchSt c).cur.length = (s.fetchSt c).cur.remBits.toNat + (s.fetchSt c).cur.release.length := by
    simp only [Cursor.length, Cursor.release_remBits, Cursor.release_bufLen, Cursor.release_pos, BitVec.toNat_ofNat]
    omega
  obtain ⟨-, hrun⟩ | ⟨hlt, -⟩ := fetchBits_cases (f := s.fetchSt c) h n
  · have := hrun.dvd_of_underrun rfl (by dsimp only; omega)
    dsimp only at this
    rwa [Nat.sub_sub, ← hsum] at this
  · omega

/-- A cursor without bits left is at its end and holds no remainder. -/
theorem Cursor.Sound.at_end {cap : Nat} {x : Cursor} (h : x.Sound cap) (hlen : x.length = 0) :
    x.pos = x.bufLen ∧ x.remBits = 0#3 := by
  have hpos := h.posLe
  simp only [Cursor.length] at hlen
  exact ⟨by omega, BitVec.eq_of_toNat_eq (by simp; omega)⟩

/-! ### Fetches in a row (R118) -/

theorem takeStream_add (bs : List Bool) (m n : Nat) :
    takeStream bs (m + n) = takeStream bs m ++ takeStream (bs.drop m) n := by
  simp only [takeStream, List.range_add, List.map_append, List.map_map]
  congr 1
  exact List.map_congr_left fun i _ => by simp [List.getD_eq_getElem?_getD, List.getElem?_drop]

theorem bitsMsb_numberOf (bs : List Bool) : bitsMsb bs.length (numberOf bs) = bs := by
  induction bs using List.reverseRecOn with
  | nil => rfl
  | append_singleton bs b ih =>
    have hb : b.toNat < 2 := b.toNat_lt
    have hbit : bitsMsb 1 b.toNat = [b] := by cases b <;> rfl
    rw [List.length_append, List.length_singleton, bitsMsb_add, numberOf_concat,
      show (2 * numberOf bs + b.toNat) / 2 ^ 1 = numberOf bs by omega,
      show (2 * numberOf bs + b.toNat) % 2 ^ 1 = b.toNat by omega, ih, hbit]

/-- Fetches in a row return the stream in order. -/
theorem fetchMany_eq_takeStream {cap : Nat} {f : FetchSt} (h : f.cur.Sound cap) {bs : List Bool}
    (hbs : f.cur.bits = some bs) (ws : List Nat) : (fetchMany ws f).1 = takeStream bs ws.sum := by
  induction ws generalizing f bs with
  | nil => rfl
  | cons w ws ih =>
    obtain ⟨hval, hrest⟩ := fetchBits_stream h hbs w
    have hw : bitsMsb w (numberOf (takeStream bs w)) = takeStream bs w := by
      simpa [takeStream] using bitsMsb_numberOf (takeStream bs w)
    rw [List.sum_cons, takeStream_add, fetchMany]
    dsimp only
    rw [ih ((fetchBits_spec w f).2.1 cap h) hrest, hval, hw]

theorem exists_charsBits {cs : List Byte} (h : ∀ ch ∈ cs, (armor6 ch).isSome = true) :
    ∃ bs, charsBits cs = some bs := by
  induction cs with
  | nil => exact ⟨[], rfl⟩
  | cons ch cs ih =>
    obtain ⟨g, hg⟩ := Option.isSome_iff_exists.mp (h ch (.head _))
    obtain ⟨bs, hbs⟩ := ih fun c hc => h c (.tail _ hc)
    exact ⟨bitsMsb 6 g.toNat ++ bs, by simp [charsBits, groupBits, hg, hbs]⟩

/-- The six bits of each character, mapped back. -/
theorem unarmorBits_charsBits {cs : List Byte} {bs : List Bool} (h : charsBits cs = some bs) {k : Nat}
    (hk : k ≤ cs.length) : 6 * k ≤ bs.length ∧ unarmorBits k (bs.take (6 * k)) = cs.take k := by
  induction k generalizing cs bs with
  | zero => exact ⟨Nat.zero_le _, rfl⟩
  | succ k ih =>
    cases cs with
    | nil => simp at hk
    | cons ch cs =>
      obtain ⟨g, gs, hg, hgs, rfl⟩ := charsBits_drop_eq_some (l := ch :: cs) (p := 0) rfl h
      obtain ⟨hlen, hih⟩ := ih (cs := cs) hgs (by simpa using hk)
      have htake : (bitsMsb 6 g.toNat ++ gs).take (6 * (k + 1)) = bitsMsb 6 g.toNat ++ gs.take (6 * k) := by
        rw [show 6 * (k + 1) = (bitsMsb 6 g.toNat).length + 6 * k by rw [length_bitsMsb]; omega,
          List.take_length_add_append]
      refine ⟨by rw [List.length_append, length_bitsMsb]; omega, ?_⟩
      rw [htake, unarmorBits, List.take_left' (length_bitsMsb 6 _), List.drop_left' (length_bitsMsb 6 _), hih,
        numberOf_bitsMsb g.isLt, BitVec.ofNat_toNat, BitVec.setWidth_eq, unarmor6_of_armor6 hg, List.take_succ_cons]

/-! ### The commands (R107, R108) -/

theorem widthOk_of_le {n : Sextet} (h1 : 1 ≤ n.toNat) (h32 : n.toNat ≤ 32) : widthOk n = true := by
  simp [widthOk, h1, h32]

/-- Y0 holds every bit of a fetched value. -/
theorem toNat_zext64_of_lt {n v : Nat} (hn : n ≤ 32) (hv : v < 2 ^ n) : (zext64 v).toNat = v :=
  Nat.mod_eq_of_lt (hv.trans_le (Nat.pow_le_pow_right (by decide) (by omega)))

/-! ### The obligations -/

/-- Settles O27: the bits are the characters' groups, which the inverse table maps back. -/
theorem fetchedBitsGiveTheCharactersBack : Obligations.FetchedBitsGiveTheCharactersBack := by
  intro f ws k hpos hrem hbits hvalid _ hsum hk
  obtain ⟨bs, hbs⟩ := exists_charsBits hvalid
  have hsound : f.cur.Sound f.cur.bufLen := ⟨by omega, Nat.le_refl _, by simp [hbits], by simp [hrem]⟩
  have hcur : f.cur.bits = some bs := Cursor.bits_eq_some_iff.mpr ⟨bs, by rw [hpos]; exact hbs, by simp [hbits]⟩
  obtain ⟨hlen, hback⟩ := unarmorBits_charsBits hbs hk
  rw [fetchMany_eq_takeStream hsound hcur, hsum, takeStream_eq, Nat.sub_eq_zero_of_le hlen, List.replicate_zero,
    List.append_nil, hback]

/-- Settles O20: the fetch law on the stream, and a fetch of valid characters changes its cursor only. -/
theorem bcFetchReturnsTheNextStreamBits : Obligations.BcFetchReturnsTheNextStreamBits := by
  intro s c n bs hlive h1 h32 hsound hbs
  obtain ⟨hval, hrest⟩ := State.fetch_stream hsound hbs n.toNat
  refine ⟨_, exec_bcFetch_ok hlive c (widthOk_of_le h1 h32), ?_, ?_, ?_, ?_⟩
  · rw [hval]; rfl
  · simpa using hrest
  · simpa using (s.fetch_frame c n.toNat).buf
  · have hfetch := State.fetch_eq_setCursor hsound hbs n.toNat
    rw [hfetch]
    cases c <;> rfl

/-- Settles O21: the length, BADCHAR and underrun laws of the fetch, and what it writes. -/
theorem bcFetchCompletesOnEveryCursor : Obligations.BcFetchCompletesOnEveryCursor := by
  intro s c n hlive h1 h32 hsound len
  have hlt := State.fetch_lt hsound n.toNat
  have hlen := State.fetch_length hsound n.toNat
  have hframe := s.fetch_frame c n.toNat
  have hy0 := toNat_zext64_of_lt h32 hlt
  refine ⟨_, exec_bcFetch_ok hlive c (widthOk_of_le h1 h32), ?_, ?_, ?_, ?_, ?_, ?_⟩
  · simpa [hy0] using hlt
  · simpa using State.fetch_badchar hsound n.toNat
  · simpa [Cursor.length, Cursor.bufLen] using hlen
  · intro hunder
    have hdvd := State.fetch_dvd_of_underrun hsound (n := n.toNat) hunder
    obtain ⟨hend, hrem⟩ := (hframe.sound _ hsound).at_end (by rw [hlen]; exact Nat.sub_eq_zero_of_le hunder.le)
    refine ⟨?_, ?_, ?_⟩
    · simpa [Cursor.bufLen, hframe.buf] using hend
    · simpa using hrem
    · exact (congrArg (· % _) hy0).trans (Nat.mod_eq_zero_of_dvd hdvd)
  · simpa using hframe.buf
  · cases c <;> rfl

/-- Settles O22: both commands run the same fetch, and the mask is the field's highest bit. -/
theorem bcFetchsIsBcFetchSigned : Obligations.BcFetchsIsBcFetchSigned := by
  intro s c n hlive h1 h32 hsound
  have hlt := State.fetch_lt hsound n.toNat
  refine ⟨_, exec_bcFetch_ok hlive c (widthOk_of_le h1 h32), ?_⟩
  have hk : n.toNat - 1 + 1 = n.toNat := by omega
  have hy0 := toNat_zext64_of_lt h32 hlt
  have hlt' : (s.fetch c n.toNat).1 < 2 ^ (n.toNat - 1 + 1) := by rwa [hk]
  rw [exec_bcFetchs_ok hlive c (widthOk_of_le h1 h32), signrecInt_eq_toInt hlt', sext64_u32_toInt (by omega),
    ← signrecInt_eq_toInt hlt', signrecInt_two_pow hlt', hk]
  simp only [State.setLast, State.setY0, completes, hy0]

end Sys2Proof.Machine
end

section
/-! SUPPORT. The framer's statements (spec/41_reassembler.md R121 to R132): what each of its steps finds in a line
written as leading bytes, a marker and the rest. -/

namespace Sys2Proof.Machine

/-! ### Unsigned fields (R130) -/

/-- The value of a digit string read on from `acc`. -/
def digitsValue (f : List Byte) (acc : Nat) : Nat := f.foldl (fun a b => 10 * a + (b.toNat - 0x30)) acc

theorem decimal_of_digits {f : List Byte} (h : ∀ b ∈ f, 0x30 ≤ b.toNat ∧ b.toNat ≤ 0x39) (acc : Nat) :
    decimal f acc = some (digitsValue f acc) := by
  induction f generalizing acc with
  | nil => rfl
  | cons b f ih =>
    rw [decimal, if_pos (h b (.head _)), ih fun c hc => h c (.tail _ hc), Nat.mul_comm]
    rfl

theorem decimal_of_not_digit {f : List Byte} (h : ∃ b ∈ f, b.toNat < 0x30 ∨ 0x39 < b.toNat) (acc : Nat) :
    decimal f acc = none := by
  induction f generalizing acc with
  | nil => simp at h
  | cons b f ih =>
    rw [decimal]
    split
    · refine ih ?_ _
      obtain ⟨c, hc, hbad⟩ := h
      obtain rfl | hc := List.mem_cons.mp hc
      · omega
      · exact ⟨c, hc, hbad⟩
    · rfl

/-! ### The start marker (R125) -/

theorem isStart_iff (b : Byte) : isStart b = true ↔ b = 0x21#8 ∨ b = 0x24#8 := by simp [isStart]

theorem findStart_eq_none {l : List Byte} (h : ∀ b ∈ l, b ≠ 0x21#8 ∧ b ≠ 0x24#8) : findStart l = none := by
  induction l with
  | nil => rfl
  | cons b l ih =>
    have hb : ¬ isStart b = true := by simpa [isStart_iff] using h b (.head _)
    rw [findStart, if_neg hb, ih fun c hc => h c (.tail _ hc)]
    rfl

section Marked
variable {junk : List Byte} {marker : Byte} (hjunk : ∀ b ∈ junk, b ≠ 0x21#8 ∧ b ≠ 0x24#8)
  (hmarker : marker = 0x21#8 ∨ marker = 0x24#8)

include hjunk hmarker in
theorem findStart_marked (l : List Byte) : findStart (junk ++ [marker] ++ l) = some junk.length := by
  induction junk with
  | nil => exact if_pos ((isStart_iff marker).mpr hmarker)
  | cons b junk ih =>
    have hb : ¬ isStart b = true := by simpa [isStart_iff] using hjunk b (.head _)
    change findStart (b :: (junk ++ [marker] ++ l)) = _
    rw [findStart, if_neg hb, ih fun c hc => hjunk c (.tail _ hc)]
    rfl

/-- An index past the marker. -/
theorem getElem?_marked (l : List Byte) (k : Nat) : (junk ++ [marker] ++ l)[junk.length + 1 + k]? = l[k]? := by
  rw [List.getElem?_append_right (by simp)]
  simp

/-! ### The sentence type (R126) -/

theorem typeOk_marked_iff (l : List Byte) : typeOk (junk ++ [marker] ++ l) junk.length = true ↔
    ∃ t1 t2 x rest, l = t1 :: t2 :: 0x56#8 :: 0x44#8 :: x :: rest ∧ (x = 0x4D#8 ∨ x = 0x4F#8) := by
  have h2 := getElem?_marked (junk := junk) (marker := marker) l 2
  have h3 := getElem?_marked (junk := junk) (marker := marker) l 3
  have h4 := getElem?_marked (junk := junk) (marker := marker) l 4
  unfold typeOk
  rw [h2, h3, h4]
  match l with
  | [] | [_] | [_, _] | [_, _, _] | [_, _, _, _] => simp
  | t1 :: t2 :: c :: d :: x :: rest => simp

/-! ### The checksum (R128) -/

theorem bodyOf_marked (l : List Byte) :
    bodyOf (junk ++ [marker] ++ l) junk.length = l.takeWhile (fun b => b != 0x2A#8) := by
  rw [bodyOf, List.drop_left' (by simp)]

theorem takeWhile_star {body : List Byte} (h : ∀ b ∈ body, b ≠ 0x2A#8) (tail : List Byte) :
    (body ++ [0x2A#8] ++ tail).takeWhile (fun b => b != 0x2A#8) = body := by
  rw [List.append_assoc, List.takeWhile_append_of_pos (by simpa using h)]
  simp

theorem checkSum_no_star {l : List Byte} (h : ∀ b ∈ l, b ≠ 0x2A#8) :
    checkSum (junk ++ [marker] ++ l) junk.length = none := by
  have hall : l.takeWhile (fun b => b != 0x2A#8) = l := List.takeWhile_eq_self_iff.mpr (by simpa using h)
  unfold checkSum
  simp only [bodyOf_marked, hall, getElem?_marked, List.getElem?_eq_none (Nat.le_refl _)]

theorem getElem?_star (body tail : List Byte) : (body ++ [0x2A#8] ++ tail)[body.length]? = some 0x2A#8 := by simp

theorem getElem?_after_star (body tail : List Byte) (k : Nat) :
    (body ++ [0x2A#8] ++ tail)[body.length + (k + 1)]? = tail[k]? := by
  rw [List.getElem?_append_right (by simp), List.length_append, List.length_singleton,
    show body.length + (k + 1) - (body.length + 1) = k by omega]

/-- The two digits after the '*' are the XOR of the body. -/
theorem checkSum_match {body tail : List Byte} (h : ∀ b ∈ body, b ≠ 0x2A#8) {hi lo : Nat}
    (hhi : tail[0]?.bind hexVal = some hi) (hlo : tail[1]?.bind hexVal = some lo)
    (hx : (xorBytes body).toNat = 16 * hi + lo) :
    checkSum (junk ++ [marker] ++ (body ++ [0x2A#8] ++ tail)) junk.length = some body := by
  unfold checkSum
  simp only [bodyOf_marked, takeWhile_star h, Nat.add_assoc _ body.length, getElem?_marked, getElem?_star,
    getElem?_after_star body tail 0, getElem?_after_star body tail 1, hhi, hlo, hx, if_true]

/-- No two digits, or digits that are not the XOR of the body. -/
theorem checkSum_mismatch {body tail : List Byte} (h : ∀ b ∈ body, b ≠ 0x2A#8)
    (hx : ∀ hi lo, tail[0]?.bind hexVal = some hi → tail[1]?.bind hexVal = some lo →
      (xorBytes body).toNat ≠ 16 * hi + lo) :
    checkSum (junk ++ [marker] ++ (body ++ [0x2A#8] ++ tail)) junk.length = none := by
  unfold checkSum
  simp only [bodyOf_marked, takeWhile_star h, Nat.add_assoc _ body.length, getElem?_marked, getElem?_star,
    getElem?_after_star body tail 0, getElem?_after_star body tail 1]
  split
  next hi lo _ hhi hlo => exact if_neg (hx hi lo hhi hlo)
  · rfl

/-! ### The steps of the framer in order (R124) -/

section Framed
include hjunk hmarker

theorem frame_of_type {l : List Byte} (h : typeOk (junk ++ [marker] ++ l) junk.length = false) :
    frame (junk ++ [marker] ++ l) = .error .notAis := by
  simp only [frame, findStart_marked hjunk hmarker, h, Bool.false_eq_true, if_false]

theorem frame_of_checkSum_none {l : List Byte} (ht : typeOk (junk ++ [marker] ++ l) junk.length = true)
    (h : checkSum (junk ++ [marker] ++ l) junk.length = none) :
    frame (junk ++ [marker] ++ l) = .error .checksumFail := by
  simp only [frame, findStart_marked hjunk hmarker, ht, h, if_true]

theorem frame_of_fragment_none {l body : List Byte} (ht : typeOk (junk ++ [marker] ++ l) junk.length = true)
    (h : checkSum (junk ++ [marker] ++ l) junk.length = some body) (hf : fragmentOf body = none) :
    frame (junk ++ [marker] ++ l) = .error .fieldErr := by
  simp only [frame, findStart_marked hjunk hmarker, ht, h, hf, if_true]

theorem frame_of_fragment {l body : List Byte} {f : Fragment} (ht : typeOk (junk ++ [marker] ++ l) junk.length = true)
    (h : checkSum (junk ++ [marker] ++ l) junk.length = some body) (hf : fragmentOf body = some f) :
    frame (junk ++ [marker] ++ l) = .ok f := by
  simp only [frame, findStart_marked hjunk hmarker, ht, h, hf, if_true]

end Framed

end Marked

/-! ### Fields (R129 to R132) -/

theorem splitFields_no_comma {f : List Byte} (h : ∀ b ∈ f, b ≠ 0x2C#8) : splitFields f = [f] := by
  induction f with
  | nil => rfl
  | cons b f ih => rw [splitFields, if_neg (h b (.head _)), ih fun c hc => h c (.tail _ hc)]

theorem splitFields_comma {f : List Byte} (h : ∀ b ∈ f, b ≠ 0x2C#8) (rest : List Byte) :
    splitFields (f ++ ([0x2C#8] ++ rest)) = f :: splitFields rest := by
  induction f with
  | nil => rfl
  | cons b f ih =>
    rw [List.cons_append, splitFields, if_neg (h b (.head _)), ih fun c hc => h c (.tail _ hc)]

theorem splitFields_four {f0 f1 f2 f3 : List Byte} (h0 : ∀ b ∈ f0, b ≠ 0x2C#8) (h1 : ∀ b ∈ f1, b ≠ 0x2C#8)
    (h2 : ∀ b ∈ f2, b ≠ 0x2C#8) (h3 : ∀ b ∈ f3, b ≠ 0x2C#8) (rest : List Byte) :
    splitFields (f0 ++ [0x2C#8] ++ f1 ++ [0x2C#8] ++ f2 ++ [0x2C#8] ++ f3 ++ [0x2C#8] ++ rest) =
      f0 :: f1 :: f2 :: f3 :: splitFields rest := by
  simp only [List.append_assoc]
  rw [splitFields_comma h0, splitFields_comma h1, splitFields_comma h2, splitFields_comma h3]

/-- The last field ends at the body's end or at a comma. -/
theorem splitFields_last {f fill : List Byte} (h : ∀ b ∈ f, b ≠ 0x2C#8)
    (hfill : fill = [] ∨ ∃ more, fill = 0x2C#8 :: more) :
    ∃ fs, splitFields (f ++ fill) = f :: fs := by
  obtain rfl | ⟨more, rfl⟩ := hfill
  · exact ⟨[], by rw [List.append_nil, splitFields_no_comma h]⟩
  · exact ⟨_, splitFields_comma h more⟩

theorem length_splitFields (l : List Byte) : (splitFields l).length = l.count 0x2C#8 + 1 := by
  induction l with
  | nil => rfl
  | cons b l ih =>
    rw [splitFields]
    split
    · simp_all
    · split <;> simp_all

/-- Fewer than six fields are no fragment. -/
theorem fragmentOf_few_fields {body : List Byte} (h : body.count 0x2C#8 < 5) : fragmentOf body = none := by
  have hlen := length_splitFields body
  unfold fragmentOf
  split
  next heq =>
    rw [heq] at hlen
    simp only [List.length_cons] at hlen
    omega
  · rfl

/-- A total, index or sequence field that is no unsigned number. -/
theorem fragmentOf_bad_field {body f0 f1 f2 f3 : List Byte} {fs : List (List Byte)}
    (hs : splitFields body = f0 :: f1 :: f2 :: f3 :: fs) (hbad : uint f1 = none ∨ uint f2 = none ∨ uint f3 = none) :
    fragmentOf body = none := by
  unfold fragmentOf
  split
  next heq =>
    rw [hs] at heq
    cases heq
    split
    next h1 h2 h3 => simp [h1, h2, h3] at hbad
    · rfl
  · rfl

theorem fragmentOf_fields {body f0 f1 f2 f3 f4 f5 : List Byte} {fs : List (List Byte)} {total idx seq : Word}
    (hs : splitFields body = f0 :: f1 :: f2 :: f3 :: f4 :: f5 :: fs) (h1 : uint f1 = some total)
    (h2 : uint f2 = some idx) (h3 : uint f3 = some seq) :
    fragmentOf body = some { total := total, idx := idx, seq := seq, chan := f4.headD 0x00#8, payload := f5 } := by
  simp [fragmentOf, hs, h1, h2, h3, chanOf]

/-! ### The obligations -/

/-- Settles O31: the digits are read from the left with accumulator 0. -/
theorem unsignedFieldsAreDecimal : Obligations.UnsignedFieldsAreDecimal := by
  intro f value
  refine ⟨fun h => by rw [h]; rfl, fun h => ?_, fun h => ?_⟩
  · rw [uint, decimal_of_not_digit h]
  · rw [uint, decimal_of_digits h]
    rfl

/-- Settles O30: each clause makes one step of the framer stop, the steps before it passing. -/
theorem framerRejectsInOrder : Obligations.FramerRejectsInOrder := by
  refine ⟨fun l h => by rw [frame, findStart_eq_none h], fun junk l marker hjunk hmarker => ⟨fun h => ?_, ?_⟩⟩
  · refine frame_of_type hjunk hmarker (Bool.eq_false_iff.mpr fun ht => ?_)
    obtain ⟨t1, t2, x, rest, hl, rfl | rfl⟩ := (typeOk_marked_iff l).mp ht
    · exact (h t1 t2 rest).1 hl
    · exact (h t1 t2 rest).2 hl
  · intro t1 t2 x rest hl hx
    have ht : typeOk (junk ++ [marker] ++ l) junk.length = true := (typeOk_marked_iff l).mpr ⟨t1, t2, x, rest, hl, hx⟩
    refine ⟨fun h => frame_of_checkSum_none hjunk hmarker ht (checkSum_no_star h), ?_⟩
    intro body tail hbody hl' hi lo
    rw [hl'] at ht ⊢
    refine ⟨fun h => frame_of_checkSum_none hjunk hmarker ht (checkSum_mismatch hbody h),
      fun vhi vlo hhi hlo hxor => ?_⟩
    have hsum := checkSum_match (junk := junk) (marker := marker) hbody hhi hlo hxor
    refine ⟨fun h => frame_of_fragment_none hjunk hmarker ht hsum (fragmentOf_few_fields h), ?_⟩
    intro f0 f1 f2 f3 more hc hfields hbad
    refine frame_of_fragment_none hjunk hmarker ht hsum
      (fragmentOf_bad_field (f0 := f0) (fs := splitFields more) ?_ hbad)
    obtain ⟨⟨⟨hc0, hc1⟩, hc2⟩, hc3⟩ := by simpa only [List.forall_mem_append] using hc
    rw [hfields, splitFields_four hc0 hc1 hc2 hc3]

/-- Settles O29: every step of the framer passes. -/
theorem framerAcceptsTheWireFormat : Obligations.FramerAcceptsTheWireFormat := by
  intro junk address f1 f2 f3 f4 f5 fill rest marker t1 t2 x hi lo total idx seq vhi vlo hjunk
    hmarker hx f0 comma body hc hfill hstar h1 h2 h3 hhi hlo hxor
  obtain ⟨⟨⟨⟨⟨hc0, hc1⟩, hc2⟩, hc3⟩, hc4⟩, hc5⟩ := by simpa only [List.forall_mem_append] using hc
  have hcomma : ∀ b ∈ [comma], b ≠ 0x2A#8 := by simp [comma]
  have noStar {f : List Byte} (h : ∀ b ∈ f, b ≠ comma ∧ b ≠ 0x2A#8) : ∀ b ∈ f, b ≠ 0x2A#8 := fun b hb => (h b hb).2
  have noComma {f : List Byte} (h : ∀ b ∈ f, b ≠ comma ∧ b ≠ 0x2A#8) : ∀ b ∈ f, b ≠ comma := fun b hb => (h b hb).1
  have hbody : ∀ b ∈ body, b ≠ 0x2A#8 := by
    simp only [body, List.forall_mem_append]
    exact ⟨⟨⟨⟨⟨⟨⟨⟨⟨⟨⟨noStar hc0, hcomma⟩, noStar hc1⟩, hcomma⟩, noStar hc2⟩, hcomma⟩, noStar hc3⟩, hcomma⟩, noStar hc4⟩,
      hcomma⟩, noStar hc5⟩, hstar⟩
  obtain ⟨fs, hlast⟩ := splitFields_last (noComma hc5) hfill
  have hsplit : splitFields body = f0 :: f1 :: f2 :: f3 :: f4 :: f5 :: fs := by
    have hassoc : body = f0 ++ [comma] ++ f1 ++ [comma] ++ f2 ++ [comma] ++ f3 ++ [comma] ++
        (f4 ++ ([comma] ++ (f5 ++ fill))) := by simp only [body, List.append_assoc]
    rw [hassoc, splitFields_four (noComma hc0) (noComma hc1) (noComma hc2) (noComma hc3),
      splitFields_comma (noComma hc4), hlast]
  have hline : junk ++ [marker] ++ body ++ [0x2A#8, hi, lo] ++ rest =
      junk ++ [marker] ++ (body ++ [0x2A#8] ++ ([hi, lo] ++ rest)) := by simp
  rw [hline]
  exact frame_of_fragment hjunk hmarker ((typeOk_marked_iff _).mpr ⟨t1, t2, x, _, rfl, hx⟩)
    (checkSum_match hbody hhi hlo hxor) (fragmentOf_fields hsplit h1 h2 h3)

end Sys2Proof.Machine
end

section
/-! SUPPORT. The reassembler's statements on a sequence (spec/41_reassembler.md R136 to R144): a next fragment, and
a chain of fragments from the first to the last. -/

namespace Sys2Proof.Machine

/-! ### A continuing fragment (R136, R138 to R141) -/

theorem State.reassemble_continued {s : State} {f : Fragment} (hp : s.rs.inProgress = true)
    (hc : s.rs.continuedBy f = true) : s.reassemble f = s.accept f := by
  simpa [hp, hc] using s.reassemble_cases f

theorem State.appendAll_c0 {s : State} (h : s.c0.buf.length ≤ s.cfg.capChars) (bs : List Byte) :
    s.appendAll .c0 bs =
      (s.setCursor .c0 { s.c0 with buf := (s.c0.buf ++ bs).take s.cfg.capChars }).setOverflow
        (s.status.overflow || decide (s.cfg.capChars < s.c0.buf.length + bs.length)) :=
  s.appendAll_spec .c0 bs h

/-- Settles O36: the fragment is the continuation RS asks for, and the append keeps what fits. -/
theorem matchingFragmentContinuesTheReassembly : Obligations.MatchingFragmentContinuesTheReassembly := by
  intro s f hlive hlen hcap hf hprog htotal hseq hchan hidx done u
  have hexec := exec_feed_ok hlive hlen hf
  rw [State.reassemble_continued hprog ((s.rs.continuedBy_iff f).mpr ⟨htotal, hseq, hchan, hidx⟩)] at hexec
  constructor
  · intro hdone
    rw [hexec, State.accept_complete hdone, State.appendAll_c0 hcap]
    rfl
  · intro hmore
    have hrs : ({ s.rs with inProgress := true, lastIdx := f.idx } : Rs) = { s.rs with lastIdx := f.idx } := by
      rw [← hprog]
    rw [hexec, State.accept_needMore hmore, State.appendAll_c0 hcap, hrs]
    rfl

/-! ### A chain of fragments (R144) -/

/-- The first CAP_CHARS characters of a text and of what is appended to it later. -/
theorem take_append_take {α : Type} (n : Nat) (as bs : List α) : (as.take n ++ bs).take n = (as ++ bs).take n := by
  rw [List.take_append, List.take_append, List.take_take, Nat.min_self, List.length_take,
    show n - min n as.length = n - as.length by omega]

section Chain
variable (fs : List Fragment) (seq : Word) (chan : Byte) (cfg : Config)

/-- Fragment k has index k + 1 and the total, sequence id and channel of the sequence. -/
def Chained : Prop :=
  fs.length < 2 ^ 32 ∧ ∀ k (h : k < fs.length), fs[k].idx.toNat = k + 1 ∧ fs[k].total.toNat = fs.length ∧
    fs[k].seq = seq ∧ fs[k].chan = chan

/-- A live block whose RS names the sequence and whose C0 holds the payloads of its first `k` fragments. -/
structure Gathered (k : Nat) (s : State) : Prop where
  live : s.status.fault = false
  sameCfg : s.cfg = cfg
  total : s.rs.total.toNat = fs.length
  sameSeq : s.rs.seq = seq
  sameChan : s.rs.chan = chan
  buf : s.c0.buf = ((fs.take k).flatMap Fragment.payload).take cfg.capChars

/-- The block between fragments `k` and `k + 1`. -/
structure Awaits (k : Nat) (s : State) : Prop extends Gathered fs seq chan cfg k s where
  inProgress : s.rs.inProgress = true
  lastIdx : s.rs.lastIdx.toNat = k

variable {fs seq chan cfg} {k : Nat} {s : State}

/-- A host that writes LINE and LINE_LEN leaves the reassembly as it is. -/
theorem Awaits.of_host_writes {t : State} (h : Awaits fs seq chan cfg k s)
    (ht : t = { s with lineMem := t.lineMem, lineLen := t.lineLen, host := t.host }) : Awaits fs seq chan cfg k t := by
  rw [ht]
  exact ⟨⟨h.live, h.sameCfg, h.total, h.sameSeq, h.sameChan, h.buf⟩, h.inProgress, h.lastIdx⟩

variable (hchain : Chained fs seq chan)
include hchain

/-- The first fragment finds an idle block and makes it one that has gathered nothing of the sequence. -/
theorem reassemble_start (h0 : 0 < fs.length) (hlive : s.status.fault = false) (hcfg : s.cfg = cfg)
    (hidle : s.rs.inProgress = false) :
    ∃ u, Gathered fs seq chan cfg 0 u ∧ s.reassemble fs[0] = u.accept fs[0] := by
  obtain ⟨hidx, htotal, hseq, hchan⟩ := hchain.2 0 h0
  exact ⟨(s.setCursor .c0 Cursor.empty).setRs { s.rs with total := fs[0].total, seq := fs[0].seq, chan := fs[0].chan },
    ⟨hlive, hcfg, htotal, hseq, hchan, List.take_nil.symm⟩, State.reassemble_first hidle (BitVec.eq_of_toNat_eq hidx)⟩

/-- The next fragment continues the reassembly that awaits it. -/
theorem reassemble_awaited (hk : k < fs.length) (h : Awaits fs seq chan cfg k s) :
    s.reassemble fs[k] = s.accept fs[k] := by
  obtain ⟨hidx, htotal, hseq, hchan⟩ := hchain.2 k hk
  refine State.reassemble_continued h.inProgress ((s.rs.continuedBy_iff _).mpr ⟨?_, ?_, ?_, ?_⟩)
  · exact BitVec.eq_of_toNat_eq (htotal.trans h.total.symm)
  · exact hseq.trans h.sameSeq.symm
  · exact hchan.trans h.sameChan.symm
  · rw [hidx, h.lastIdx]

/-- An accepted fragment completes the sequence exactly where it is the last; else the next one is awaited. -/
theorem accept_gathered (hk : k < fs.length) (h : Gathered fs seq chan cfg k s) :
    (k + 1 = fs.length → (s.accept fs[k]).status.last = 1#4 ∧ (s.accept fs[k]).rs.inProgress = false ∧
      (s.accept fs[k]).c0.buf = (fs.flatMap Fragment.payload).take cfg.capChars) ∧
    (k + 1 ≠ fs.length → (s.accept fs[k]).status.last = 2#4 ∧ Awaits fs seq chan cfg (k + 1) (s.accept fs[k])) := by
  obtain ⟨hidx, htotal, -, -⟩ := hchain.2 k hk
  have hcap : s.c0.buf.length ≤ s.cfg.capChars := by rw [h.buf, h.sameCfg]; exact List.length_take_le ..
  have hbuf : (s.c0.buf ++ fs[k].payload).take s.cfg.capChars =
      ((fs.take (k + 1)).flatMap Fragment.payload).take cfg.capChars := by
    rw [h.buf, h.sameCfg, take_append_take, List.take_succ_eq_append_getElem hk, List.flatMap_append,
      List.flatMap_singleton]
  have hdone : (fs[k].total = 0#32 ∨ fs[k].idx = s.rs.total) ↔ k + 1 = fs.length := by
    have hzero : fs[k].total ≠ 0#32 := fun h0 => by
      rw [h0] at htotal
      simp at htotal
      omega
    rw [or_iff_right hzero, ← BitVec.toNat_inj, hidx, h.total]
  constructor
  · intro hlast
    rw [State.accept_complete (hdone.mpr hlast), State.appendAll_c0 hcap, hbuf, hlast, List.take_length]
    exact ⟨rfl, rfl, rfl⟩
  · intro hnot
    rw [State.accept_needMore (mt hdone.mp hnot), State.appendAll_c0 hcap, hbuf]
    exact ⟨rfl, ⟨h.live, h.sameCfg, h.total, h.sameSeq, h.sameChan, rfl⟩, rfl, hidx⟩

end Chain

/-- Settles O37: by induction each FEED accepts its fragment in a block that has gathered the ones before it. -/
theorem chainedFragmentsCompleteOnce : Obligations.ChainedFragmentsCompleteOnce := by
  intro fs before after seq chan hpos hsmall hfs hidle hlive hsteps
  have hchain : Chained fs seq chan := ⟨hsmall, hfs⟩
  have hfeed (k : Nat) (hk : k < fs.length) (hl : (before k).status.fault = false) :
      after k = (before k).reassemble fs[k] := by
    obtain ⟨hlen, hf, hexec, -⟩ := hsteps k hk
    have := hexec.symm.trans (exec_feed_ok hl hlen hf)
    injection this
  have haccept (k : Nat) (hk : k < fs.length) :
      ∃ u, Gathered fs seq chan (before 0).cfg k u ∧ after k = u.accept fs[k] := by
    induction k with
    | zero =>
      obtain ⟨u, hu, heq⟩ := reassemble_start hchain hk hlive rfl hidle
      exact ⟨u, hu, (hfeed 0 hk hlive).trans heq⟩
    | succ k ih =>
      obtain ⟨u, hu, heq⟩ := ih (by omega)
      obtain ⟨-, -, -, hhost⟩ := hsteps k (by omega)
      have hawaits := ((accept_gathered hchain (by omega) hu).2 (by omega)).2
      rw [← heq] at hawaits
      have hnext := hawaits.of_host_writes hhost
      exact ⟨_, hnext.toGathered, (hfeed (k + 1) hk hnext.live).trans (reassemble_awaited hchain hk hnext)⟩
  have hends (k : Nat) (hk : k < fs.length) :
      (k + 1 = fs.length → (after k).status.last = 1#4 ∧ (after k).rs.inProgress = false ∧
        (after k).c0.buf = (fs.flatMap Fragment.payload).take (before 0).cfg.capChars) ∧
      (k + 1 ≠ fs.length → (after k).status.last = 2#4) := by
    obtain ⟨u, hu, heq⟩ := haccept k hk
    obtain ⟨hlast, hmore⟩ := accept_gathered hchain hk hu
    rw [heq]
    exact ⟨hlast, fun hk' => (hmore hk').1⟩
  obtain ⟨-, hprog, hbuf⟩ := (hends (fs.length - 1) (by omega)).1 (by omega)
  refine ⟨fun k hk => ?_, hbuf, hprog⟩
  split
  next hk' => exact ((hends k hk).1 hk').1
  next hk' => exact (hends k hk).2 hk'

end Sys2Proof.Machine
end

section
/-! SUPPORT. LDLINE (spec/30_encoding.md R62): a run of the accesses it stands for. -/

namespace Sys2Proof.Machine

theorem core_run_succ {s t : State} (h : step s = .next t) (k : Nat) : core.run (k + 1) s = core.run k t := by
  have h' : core.step s = .next t := h
  simp only [Host.Core.run, h']

/-- A byte written as a word stores the byte (R34). -/
theorem extractLsb'_setWidth (b : Byte) : (b.setWidth 32).extractLsb' 0 8 = b := by
  apply BitVec.eq_of_toNat_eq
  rw [BitVec.extractLsb'_toNat, Nat.shiftRight_zero, BitVec.toNat_setWidth]
  omega

/-- The bytes of a text, written from LINE[i] on, one step each. -/
theorem run_asmBytes {s : State} (hwf : s.cfg.wf = true) (bs : List Byte) (i : Nat)
    (hcap : i + bs.length ≤ s.cfg.lineCap)
    {rest : List Event} (hp : s.host.pending = asmBytes s.cfg i bs ++ rest) :
    ∃ t, (∀ k, core.run (bs.length + k) s = core.run k t) ∧ t = { s with lineMem := t.lineMem, host := t.host } ∧
      t.host.pending = rest ∧
      ∀ j, t.lineByte j = if i ≤ j then (bs[j - i]?).getD (s.lineByte j) else s.lineByte j := by
  induction bs generalizing s i with
  | nil => exact ⟨s, fun k => by simp, rfl, hp, fun j => by simp⟩
  | cons b bs ih =>
    rw [List.length_cons] at hcap
    have hstep : step s = .next ((s.popped (asmBytes s.cfg (i + 1) bs ++ rest)).advance.putLine i b) := by
      have h := step_write hwf (p := .line i) (show i < s.cfg.lineCap by omega) (by simp) (v := b.setWidth 32) hp
      rwa [State.hostWrite, extractLsb'_setWidth] at h
    obtain ⟨t, hrun, hrest, hpend, hline⟩ := ih
      (s := (s.popped (asmBytes s.cfg (i + 1) bs ++ rest)).advance.putLine i b) hwf (i + 1)
      (by change i + 1 + bs.length ≤ s.cfg.lineCap; omega) rfl
    refine ⟨t, fun k => ?_, hrest, hpend, fun j => ?_⟩
    · rw [List.length_cons, Nat.add_right_comm, core_run_succ hstep, hrun]
    · rw [hline, State.lineByte_putLine]
      obtain hlt | rfl | hgt := Nat.lt_trichotomy j i
      · rw [if_neg (by omega), if_neg (by omega), if_neg (by omega)]; rfl
      · rw [if_neg (by omega), if_pos rfl, if_pos (Nat.le_refl j), Nat.sub_self]; rfl
      · rw [if_pos (by omega), if_neg (by omega), if_pos (by omega), show j - i = j - (i + 1) + 1 by omega]; rfl

/-- Settles O59: the bytes, then the length. -/
theorem ldlineLoadsTheLine : Obligations.LdlineLoadsTheLine := by
  intro s text es rest hwf hes hp
  unfold asmLdline at hes
  split at hes
  next hlen =>
    cases hes
    rw [List.append_assoc] at hp
    obtain ⟨t, hrun, hrest, hpend, hline⟩ := run_asmBytes hwf text 0 (by omega) hp
    have hcfg : t.cfg = s.cfg := by rw [hrest]
    have hstep := step_write (s := t) (by rw [hcfg]; exact hwf) (p := .lineLen) trivial (by simp)
      (v := BitVec.ofNat 32 text.length) (rest := rest) (by rw [hpend, hcfg]; rfl)
    refine ⟨_, by rw [hrun, core_run_succ hstep]; rfl, ?_, fun i hi => ?_, fun i hi => ?_, rfl, ?_⟩
    · have := (Config.sizes_le hwf).1
      exact Nat.mod_eq_of_lt (by omega)
    · exact (hline i).trans (by simp [hi])
    · exact (hline i).trans (by simp [hi])
    · change { t with lineLen := _, host := _ } = _
      rw [hrest]
      rfl
  · cases hes

end Sys2Proof.Machine
end

section
/-! SUPPORT. The descriptors' statements (spec/44_decoders.md R173 to R178, R188): what a field reads, fields in a row
as a run of fetches, the bits a fixed-width list consumes, and the passes of a REPEAT. -/

namespace Sys2Proof.Machine

/-! ### Lengths of streams and values -/

theorem numberOf_lt (bs : List Bool) : numberOf bs < 2 ^ bs.length := by
  induction bs using List.reverseRecOn with
  | nil => decide
  | append_singleton bs b ih =>
    have hb : b.toNat < 2 := b.toNat_lt
    rw [numberOf_concat, List.length_append, List.length_singleton, pow_succ]
    omega

@[simp] theorem length_takeStream (bs : List Bool) (n : Nat) : (takeStream bs n).length = n := by simp [takeStream]

theorem numberOf_takeStream_lt (bs : List Bool) (n : Nat) : numberOf (takeStream bs n) < 2 ^ n := by
  simpa using numberOf_lt (takeStream bs n)

/-- Inside the finite part the stream's bits are its elements. -/
theorem takeStream_eq_take {bs : List Bool} {n : Nat} (h : n ≤ bs.length) : takeStream bs n = bs.take n := by
  rw [takeStream_eq, Nat.sub_eq_zero_of_le h, List.replicate_zero, List.append_nil]

theorem length_charsBits {cs : List Byte} {bs : List Bool} (h : charsBits cs = some bs) :
    bs.length = 6 * cs.length := by
  induction cs generalizing bs with
  | nil => cases h; rfl
  | cons ch cs ih =>
    obtain ⟨g, gs, -, hgs, rfl⟩ := charsBits_drop_eq_some (l := ch :: cs) (p := 0) rfl h
    rw [List.length_append, length_bitsMsb, ih hgs, List.length_cons]
    omega

/-- A cursor's length is the length of its stream's finite part (R115). -/
theorem Cursor.length_of_bits {x : Cursor} {bs : List Bool} (h : x.bits = some bs) : x.length = bs.length := by
  obtain ⟨cs, hcs, rfl⟩ := Cursor.bits_eq_some_iff.mp h
  rw [List.length_append, length_bitsMsb, length_charsBits hcs, List.length_drop]
  rfl

/-! ### What a piece of a layout consumes -/

theorem State.putRec_eq (s : State) (i : Nat) (v : Word) :
    s.putRec i v = { s with recMem := (s.putRec i v).recMem } := by
  unfold State.putRec
  split <;> rfl

/-- `t` is `s` with the first `n` bits of C0's stream `bs` consumed and words of REC written. -/
structure Consumes (bs : List Bool) (n : Nat) (s t : State) : Prop where
  sound : ∀ cap, s.c0.Sound cap → t.c0.Sound cap
  bits : t.c0.bits = some (bs.drop n)
  buf : t.c0.buf = s.c0.buf
  rest : t = { s with c0 := t.c0, recMem := t.recMem }

namespace Consumes
variable {bs : List Bool} {m n : Nat} {s t u : State}

theorem refl (h : s.c0.bits = some bs) : Consumes bs 0 s s := ⟨fun _ => id, h, rfl, rfl⟩

theorem trans (h : Consumes bs m s t) (k : Consumes (bs.drop m) n t u) : Consumes bs (m + n) s u where
  sound cap := k.sound cap ∘ h.sound cap
  bits := by rw [k.bits, List.drop_drop]
  buf := k.buf.trans h.buf
  rest := by rw [k.rest, h.rest]

theorem recWords (h : Consumes bs n s t) : t.cfg.recWords = s.cfg.recWords := by rw [h.rest]

theorem putRec (h : Consumes bs n s t) (i : Nat) (v : Word) : Consumes bs n s (t.putRec i v) := by
  refine ⟨by simpa using h.sound, by simpa using h.bits, by simpa using h.buf, ?_⟩
  rw [t.putRec_eq, h.rest]

/-- A fetch of valid characters (spec/40_bitcursor.md R107). -/
theorem ofFetch {cap : Nat} (h : s.c0.Sound cap) (hbs : s.c0.bits = some bs) (n : Nat) :
    Consumes bs n s (s.fetch .c0 n).2 where
  sound := (s.fetch_frame .c0 n).sound
  bits := (State.fetch_stream (c := .c0) h hbs n).2
  buf := (s.fetch_frame .c0 n).buf
  rest := State.fetch_eq_setCursor (c := .c0) h hbs n

end Consumes

@[simp] theorem State.recWord_fetch (s : State) (c : CursorSel) (n j : Nat) :
    (s.fetch c n).2.recWord j = s.recWord j := by
  cases c <;> rfl

/-- `REC[t] <- f(fetch(w))` on valid characters. -/
theorem State.fetchTo_recWord {cap : Nat} {s : State} (h : s.c0.Sound cap) {bs : List Bool} (hbs : s.c0.bits = some bs)
    (w t : Nat) (f : Nat → Word) (j : Nat) : (s.fetchTo w t f).recWord j =
      if j = t ∧ t < s.cfg.recWords then f (numberOf (takeStream bs w)) else s.recWord j := by
  have hf := Consumes.ofFetch h hbs w
  rw [State.fetchTo, State.recWord_putRec, hf.recWords, (State.fetch_stream (c := .c0) h hbs w).1]
  rw [State.recWord_fetch]

theorem State.fetchTo_consumes {cap : Nat} {s : State} (h : s.c0.Sound cap) {bs : List Bool} (hbs : s.c0.bits = some bs)
    (w t : Nat) (f : Nat → Word) : Consumes bs w s (s.fetchTo w t f) := (Consumes.ofFetch h hbs w).putRec t _

/-! ### Lists of fields (R178) -/

/-- How a field's bits become the word it stores: as they are, sign-recovered, sign-recovered times 1000, or as an ASCII
code (spec/43_convert.md R156 to R165). -/
inductive Reading where
  | unsigned
  | signed
  | scaled
  | letter
deriving DecidableEq

/-- A field: its slot, its width and how it is read. -/
structure Field where
  slot    : Nat
  width   : Nat
  reading : Reading
deriving DecidableEq

/-- The word a field stores of its bits. -/
def Field.word (f : Field) (v : Nat) : Word :=
  match f.reading with
  | .unsigned => BitVec.ofNat 32 v
  | .signed => u32 (signrecInt v (2 ^ (f.width - 1)))
  | .scaled => u32 (1000 * signrecInt v (2 ^ (f.width - 1)))
  | .letter => BitVec.ofNat 32 (ascii6 v)

/-- The fields a descriptor of a kind that only reads fields stands for; TEXT is one a character (R182). -/
def fieldsOf : Desc → Option (List Field)
  | .u w t => some [⟨t, w, .unsigned⟩]
  | .s w t => some [⟨t, w, .signed⟩]
  | .lat27 t => some [⟨t, 27, .signed⟩]
  | .lon28 t => some [⟨t, 28, .signed⟩]
  | .lat17 t => some [⟨t, 17, .scaled⟩]
  | .lon18 t => some [⟨t, 18, .scaled⟩]
  | .text k t => some ((List.range' t k).map (fun j => ⟨j, 6, .letter⟩))
  | _ => none

/-- The fields fetched in order, each into its slot. -/
def State.fetchFields (s : State) (base : Nat) (fs : List Field) : State :=
  fs.foldl (fun u f => u.fetchTo f.width (base + f.slot) f.word) s

theorem State.textTo_eq_fetchFields (s : State) (base t k : Nat) :
    State.textTo k (base + t) s = s.fetchFields base ((List.range' t k).map (fun j => ⟨j, 6, .letter⟩)) := by
  induction k generalizing t s with
  | zero => rfl
  | succ k ih => rw [State.textTo, Nat.add_assoc, ih]; rfl

theorem runDesc_eq_fetchFields {d : Desc} {fs : List Field} (h : fieldsOf d = some fs) (base : Nat) (s : State) :
    runDesc d base s = s.fetchFields base fs := by
  cases d with
  | u | s | lat27 | lon28 | lat17 | lon18 => cases h; rw [runDesc]; rfl
  | text k t => cases h; rw [runDesc, State.textTo_eq_fetchFields]
  | skip | flagor | sel | case | rept | residual => cases h

theorem State.fetchFields_append (s : State) (base : Nat) (fs gs : List Field) :
    s.fetchFields base (fs ++ gs) = (s.fetchFields base fs).fetchFields base gs := List.foldl_append ..

/-- The fields of a list whose descriptors only read fields. -/
def fieldList (ds : List Desc) : List Field := ds.flatMap fun d => (fieldsOf d).getD []

theorem runDescs_eq_fetchFields {ds : List Desc} (h : ∀ d ∈ ds, (fieldsOf d).isSome = true) (base : Nat) (s : State) :
    runDescs (descs ds) base s = s.fetchFields base (fieldList ds) := by
  induction ds generalizing s with
  | nil => rfl
  | cons d ds ih =>
    obtain ⟨fs, hfs⟩ := Option.isSome_iff_exists.mp (h d (.head _))
    have hlist : fieldList (d :: ds) = fs ++ fieldList ds := by simp [fieldList, hfs]
    rw [hlist, State.fetchFields_append, ← runDesc_eq_fetchFields hfs, ← ih fun e he => h e (.tail _ he)]
    rfl

/-- The bits before field k of a list. -/
def bitsBefore (fs : List Field) (k : Nat) : Nat := ((fs.take k).map Field.width).sum

section Fields
variable {cap : Nat} {s : State} {bs : List Bool}

theorem State.fetchFields_consumes (h : s.c0.Sound cap) (hbs : s.c0.bits = some bs) (base : Nat) (fs : List Field) :
    Consumes bs (fs.map Field.width).sum s (s.fetchFields base fs) := by
  induction fs generalizing s bs with
  | nil => exact .refl hbs
  | cons f fs ih =>
    have hf := State.fetchTo_consumes h hbs f.width (base + f.slot) f.word
    exact hf.trans (ih (hf.sound cap h) hf.bits)

/-- A slot no field names keeps its word. -/
theorem State.fetchFields_other (s : State) {base : Nat} {fs : List Field} {j : Nat}
    (hj : ∀ f ∈ fs, j ≠ base + f.slot) :
    (s.fetchFields base fs).recWord j = s.recWord j := by
  induction fs generalizing s with
  | nil => rfl
  | cons f fs ih =>
    have hfirst : (s.fetchTo f.width (base + f.slot) f.word).recWord j = s.recWord j := by
      rw [State.fetchTo, State.recWord_putRec, if_neg fun hand => hj f (.head _) hand.1, State.recWord_fetch]
    exact (ih _ fun g hg => hj g (.tail _ hg)).trans hfirst

/-- Where no slot is named twice, each field's slot holds its own bits of the stream. -/
theorem State.fetchFields_recWord (h : s.c0.Sound cap) (hbs : s.c0.bits = some bs) {base : Nat} {fs : List Field}
    (hnodup : (fs.map Field.slot).Nodup) {k : Nat} (hk : k < fs.length) (hin : base + fs[k].slot < s.cfg.recWords) :
    (s.fetchFields base fs).recWord (base + fs[k].slot) =
      fs[k].word (numberOf (takeStream (bs.drop (bitsBefore fs k)) fs[k].width)) := by
  induction fs generalizing s bs k with
  | nil => simp at hk
  | cons f fs ih =>
    have hf := State.fetchTo_consumes h hbs f.width (base + f.slot) f.word
    obtain ⟨hnot, hnodup⟩ := List.nodup_cons.mp hnodup
    cases k with
    | zero =>
      have hrest : ∀ g ∈ fs, base + f.slot ≠ base + g.slot := fun g hg heq =>
        hnot ((Nat.add_left_cancel heq) ▸ List.mem_map_of_mem hg)
      exact (State.fetchFields_other _ hrest).trans ((State.fetchTo_recWord h hbs _ _ _ _).trans (if_pos ⟨rfl, hin⟩))
    | succ k =>
      have hbefore : bitsBefore (f :: fs) (k + 1) = f.width + bitsBefore fs k := by simp [bitsBefore]
      have hih := ih (hf.sound cap h) hf.bits hnodup (k := k) (by simpa using hk) (by rw [hf.recWords]; exact hin)
      rwa [List.drop_drop, ← hbefore] at hih

end Fields

theorem State.recWord_putRec_inside {s : State} {i : Nat} (hi : i < s.cfg.recWords) (v : Word) (j : Nat) :
    (s.putRec i v).recWord j = if j = i then v else s.recWord j :=
  (s.recWord_putRec i j v).trans (if_congr (and_iff_left hi) rfl rfl)

/-! ### What a field stores (spec/43_convert.md R156, R159, R160, R165) -/

theorem u32_signrecInt {v k : Nat} (h : v < 2 ^ (k + 1)) :
    u32 (signrecInt v (2 ^ k)) = (BitVec.ofNat (k + 1) v).signExtend 32 :=
  congrArg u32 (signrecInt_eq_toInt h)

theorem ascii6_of_lt_64 {v : Nat} (h : v < 64) : ascii6 v = if v < 0x20 then v + 0x40 else v := by
  rw [ascii6, Nat.mod_eq_of_lt h]

/-- A single field of the six kinds. -/
theorem State.fetchTo_stores {cap : Nat} {s : State} (h : s.c0.Sound cap) {bs : List Bool} (hbs : s.c0.bits = some bs)
    {w t : Nat} (ht : t < s.cfg.recWords) (f : Nat → Word) (j : Nat) :
    (s.fetchTo w t f).recWord j = if j = t then f (numberOf (takeStream bs w)) else s.recWord j :=
  (State.fetchTo_recWord h hbs w t f j).trans (if_congr (and_iff_left ht) rfl rfl)

/-! ### TEXT (R182) -/

/-- The fields of TEXT(k, s). -/
def textFields (t k : Nat) : List Field := (List.range' t k).map (fun j => ⟨j, 6, .letter⟩)

theorem bitsBefore_textFields (t : Nat) {k i : Nat} (h : i ≤ k) : bitsBefore (textFields t k) i = 6 * i := by
  have hwidth : Field.width ∘ (fun j => (⟨j, 6, .letter⟩ : Field)) = fun _ => 6 := rfl
  rw [bitsBefore, textFields, ← List.map_take, List.map_map, hwidth, List.map_const', List.sum_replicate_nat,
    List.length_take, List.length_range', Nat.min_eq_left h, Nat.mul_comm]

section Text
variable {cap : Nat} {s : State} (h : s.c0.Sound cap) {bs : List Bool} (hbs : s.c0.bits = some bs)
include h hbs

theorem runDesc_text_consumes (base t k : Nat) : Consumes bs (6 * k) s (runDesc (.text k t) base s) := by
  have hc := State.fetchFields_consumes h hbs base (textFields t k)
  have hsum : ((textFields t k).map Field.width).sum = 6 * k := by
    have := bitsBefore_textFields t (Nat.le_refl k)
    rwa [bitsBefore, List.take_of_length_le (by simp [textFields])] at this
  rw [hsum] at hc
  rw [runDesc_eq_fetchFields rfl]
  exact hc

theorem runDesc_text_recWord {base t k : Nat} (hk : base + t + k ≤ s.cfg.recWords) (j : Nat) :
    (runDesc (.text k t) base s).recWord j =
      if base + t ≤ j ∧ j < base + t + k then
        BitVec.ofNat 32 (ascii6 (numberOf (takeStream (bs.drop (6 * (j - (base + t)))) 6)))
      else s.recWord j := by
  have hrun : runDesc (.text k t) base s = s.fetchFields base (textFields t k) := runDesc_eq_fetchFields rfl base s
  rw [hrun]
  split
  next hin =>
    obtain ⟨i, rfl⟩ := Nat.exists_eq_add_of_le hin.1
    have hi : i < (textFields t k).length := by simp [textFields]; omega
    have hfield : (textFields t k)[i] = ⟨t + i, 6, .letter⟩ := by simp [textFields]
    have hnodup : ((textFields t k).map Field.slot).Nodup := by
      simp only [textFields, List.map_map, Function.comp_def, List.map_id']
      exact List.nodup_range' ..
    have := State.fetchFields_recWord h hbs (base := base) hnodup hi (by rw [hfield]; dsimp only; omega)
    rw [hfield, bitsBefore_textFields t (by omega)] at this
    rw [Nat.add_sub_cancel_left, Nat.add_assoc]
    exact this
  next hout =>
    refine State.fetchFields_other s fun f hf heq => hout ?_
    simp only [textFields, List.mem_map, List.mem_range'_1] at hf
    obtain ⟨i, hi, rfl⟩ := hf
    dsimp only at heq
    omega

end Text

/-! ### SKIP (R177) -/

theorem State.skipBits_recMem (fuel w : Nat) (s : State) : (State.skipBits fuel w s).recMem = s.recMem := by
  induction fuel generalizing w s with
  | zero => rfl
  | succ fuel ih =>
    unfold State.skipBits
    split
    · rfl
    · rw [ih]; rfl

theorem State.skipBits_consumes {cap fuel w : Nat} (hw : w ≤ fuel) {s : State} (h : s.c0.Sound cap) {bs : List Bool}
    (hbs : s.c0.bits = some bs) : Consumes bs w s (State.skipBits fuel w s) := by
  induction fuel generalizing w s bs with
  | zero => obtain rfl := Nat.le_zero.mp hw; exact .refl hbs
  | succ fuel ih =>
    unfold State.skipBits
    split
    next h0 => subst h0; exact .refl hbs
    next h0 =>
      have hf := Consumes.ofFetch h hbs (min w 32)
      have := hf.trans (ih (w := w - min w 32) (by omega) (hf.sound cap h) hf.bits)
      rwa [Nat.add_sub_cancel' (Nat.min_le_left w 32)] at this

/-! ### Settling the kinds -/

/-- Settles O60: a field is a fetch into its slot, TEXT a row of them, SKIP fetches alone. -/
theorem descriptorsStoreWhatTheirKindSays : Obligations.DescriptorsStoreWhatTheirKindSays := by
  intro s base slot bs hsound hbs v
  have hv (n : Nat) : v n < 2 ^ n := numberOf_takeStream_lt bs n
  refine ⟨fun w n d value h1 h32 hin hmem => ?_, fun k hk => ?_, fun w _ => ?_, fun m hin => ?_, fun hin => ?_,
    fun d0 d1 => by simp only [runDesc], fun dflt => ?_, fun value ds rest dflt => ?_, fun d ds => rfl⟩
  · obtain ⟨reading, hd, rfl⟩ : ∃ reading, fieldsOf d = some [⟨slot, n, reading⟩] ∧
        value = Field.word ⟨slot, n, reading⟩ (v n) := by
      simp only [List.mem_cons, List.not_mem_nil, or_false, Prod.mk.injEq] at hmem
      obtain ⟨rfl, rfl, rfl⟩ | ⟨rfl, rfl, rfl⟩ | ⟨rfl, rfl, rfl⟩ | ⟨rfl, rfl, rfl⟩ |
        ⟨rfl, rfl, rfl⟩ | ⟨rfl, rfl, rfl⟩ := hmem
      · exact ⟨_, rfl, rfl⟩
      · have hw : n - 1 + 1 = n := by omega
        have hlt : v n < 2 ^ (n - 1 + 1) := by rw [hw]; exact hv n
        have hsign := signrecInt_two_pow hlt
        rw [hw] at hsign
        exact ⟨_, rfl, congrArg u32 hsign.symm⟩
      · exact ⟨_, rfl, (u32_signrecInt (k := 26) (hv 27)).symm⟩
      · exact ⟨_, rfl, (u32_signrecInt (k := 27) (hv 28)).symm⟩
      · exact ⟨_, rfl, congrArg u32 (lat17Of_eq_toInt (hv 17)).symm⟩
      · exact ⟨_, rfl, congrArg u32 (lon18Of_eq_toInt (hv 18)).symm⟩
    have hrun : runDesc d base s = s.fetchTo n (base + slot) (Field.word ⟨slot, n, reading⟩) :=
      runDesc_eq_fetchFields hd base s
    have hc := State.fetchTo_consumes hsound hbs n (base + slot) (Field.word ⟨slot, n, reading⟩)
    rw [hrun]
    exact ⟨State.fetchTo_stores hsound hbs hin _, hc.bits, hc.buf, hc.rest⟩
  · have hc := runDesc_text_consumes hsound hbs base slot k
    refine ⟨fun j => ?_, hc.bits, hc.buf, hc.rest⟩
    rw [runDesc_text_recWord hsound hbs hk j, ascii6_of_lt_64 (numberOf_takeStream_lt _ 6)]
  · have hc := State.skipBits_consumes (Nat.le_refl w) hsound hbs
    have hrun : runDesc (.skip w) base s = State.skipBits w w s := by rw [runDesc]
    rw [hrun]
    refine ⟨hc.bits, hc.buf, ?_⟩
    have hrest := hc.rest
    rw [State.skipBits_recMem] at hrest
    exact hrest
  · have hrun : runDesc (.flagor slot m) base s = s.putRec (base + slot) (s.recWord (base + slot) ||| m) := by
      rw [runDesc]
    rw [hrun]
    refine ⟨fun j => (State.recWord_putRec_inside hin _ j).trans ?_, s.putRec_eq _ _⟩
    exact if_ctx_congr Iff.rfl (fun hj => by rw [hj]) fun _ => rfl
  · have hrun : runDesc (.residual slot) base s = s.residualTo (base + slot) := by rw [runDesc]
    have hlen : s.c0.length = bs.length := Cursor.length_of_bits hbs
    rw [hrun, State.residualTo, hlen]
    refine ⟨fun j => State.recWord_putRec_inside hin _ j, ?_⟩
    rw [s.putRec_eq]
    rfl
  · simp only [runDesc, runArms]
  · simp only [runDesc, runArms]

/-! ### The bits of fixed-width kinds (R173) -/

section Length
variable {cap : Nat} {s : State} (h : s.c0.Sound cap)
include h

theorem State.fetchTo_length (w t : Nat) (f : Nat → Word) : (s.fetchTo w t f).c0.length = s.c0.length - w := by
  rw [State.fetchTo, State.putRec_c0]
  exact State.fetch_length (c := .c0) h w

theorem State.textTo_length (k t : Nat) : (State.textTo k t s).c0.length = s.c0.length - 6 * k := by
  induction k generalizing t s with
  | zero => rfl
  | succ k ih =>
    rw [State.textTo, ih ((s.fetchTo_frame 6 t _).c0 cap h), State.fetchTo_length h]
    omega

theorem State.skipBits_length {fuel w : Nat} (hw : w ≤ fuel) :
    (State.skipBits fuel w s).c0.length = s.c0.length - w := by
  induction fuel generalizing w s with
  | zero => obtain rfl := Nat.le_zero.mp hw; rfl
  | succ fuel ih =>
    unfold State.skipBits
    split
    next h0 => subst h0; rfl
    next h0 =>
      have hlen : (s.fetch .c0 (min w 32)).2.c0.length = s.c0.length - min w 32 := State.fetch_length (c := .c0) h _
      rw [ih ((DecFrame.ofFetch s _).c0 cap h) (by omega), hlen]
      omega

/-- A descriptor of a fixed-width kind consumes its width, or what is left. -/
theorem runDesc_length {d : Desc} {w : Nat} (hw : d.width? = some w) (base : Nat) :
    (runDesc d base s).c0.length = s.c0.length - w := by
  cases d with
  | u | s | lat27 | lon28 | lat17 | lon18 => cases hw; rw [runDesc]; exact State.fetchTo_length h _ _ _
  | text k t => cases hw; rw [runDesc]; exact State.textTo_length h _ _
  | skip w => cases hw; rw [runDesc]; exact State.skipBits_length h (Nat.le_refl _)
  | flagor t m => cases hw; rw [runDesc, State.putRec_c0]; rfl
  | sel | case | rept | residual => cases hw

end Length

theorem Descs.width?_cons {d : Desc} {ds : Descs} {w : Nat} (h : (Descs.cons d ds).width? = some w) :
    ∃ a b, d.width? = some a ∧ ds.width? = some b ∧ a + b = w := by
  unfold Descs.width? at h
  split at h
  next a b ha hb => exact ⟨a, b, ha, hb, Option.some.inj h⟩
  · cases h

/-- A list of fixed-width descriptors consumes the sum. -/
theorem runDescs_length {cap : Nat} (ds : Descs) {w : Nat} (hw : ds.width? = some w) (base : Nat) {s : State}
    (h : s.c0.Sound cap) : (runDescs ds base s).c0.length = s.c0.length - w := by
  cases ds with
  | nil => cases hw; rfl
  | cons d ds =>
    obtain ⟨a, b, ha, hb, rfl⟩ := Descs.width?_cons hw
    rw [runDescs, runDescs_length ds hb base ((runDesc_frame d base s).c0 cap h), runDesc_length h ha]
    omega

/-! ### REPEAT (R188) -/

/-- `n` passes of a sub-record from pass `i` on. -/
def passesFrom (sub : Descs) (base stride i n : Nat) (s : State) : State :=
  (List.range' i n).foldl (fun u k => runDescs sub (base + k * stride) u) s

theorem passesFrom_frame (sub : Descs) (base stride i n : Nat) (s : State) :
    DecFrame s (passesFrom sub base stride i n s) := by
  induction n generalizing i s with
  | zero => exact .refl s
  | succ n ih => exact (runDescs_frame sub _ s).trans (ih (i + 1) _)

theorem passesFrom_succ (sub : Descs) (base stride n : Nat) (s : State) :
    passesFrom sub base stride 0 (n + 1) s =
      runDescs sub (base + n * stride) (passesFrom sub base stride 0 n s) := by
  simp [passesFrom, List.range'_concat, List.foldl_append]

/-- REPEAT makes as many passes as fit in the bits left, and not more than `rounds`. -/
theorem repeatLoop_eq {cap : Nat} {sub : Descs} {w : Nat} (hw : sub.width? = some w) (hpos : 1 ≤ w)
    (base stride rounds i : Nat) {s : State} (h : s.c0.Sound cap) :
    repeatLoop (runDescs sub) w base stride rounds i s =
      (i + min rounds (s.c0.length / w), passesFrom sub base stride i (min rounds (s.c0.length / w)) s) := by
  induction rounds generalizing i s with
  | zero => simp [repeatLoop, passesFrom]
  | succ rounds ih =>
    unfold repeatLoop
    split
    next hle =>
      have hlen := runDescs_length sub hw (base + i * stride) h
      have hdiv : s.c0.length / w = (s.c0.length - w) / w + 1 := by
        rw [← Nat.sub_add_cancel hle, Nat.add_sub_cancel, Nat.add_div_right _ hpos]
      rw [ih (i + 1) ((runDescs_frame sub _ s).c0 cap h), hlen, hdiv, Nat.add_min_add_right]
      refine Prod.ext (by dsimp only; omega) rfl
    next hlt =>
      rw [Nat.div_eq_of_lt (Nat.lt_of_not_le hlt), Nat.min_zero]
      rfl

theorem passesFrom_length {cap : Nat} {sub : Descs} {w : Nat} (hw : sub.width? = some w) (base stride n : Nat)
    {s : State} (h : s.c0.Sound cap) : (passesFrom sub base stride 0 n s).c0.length = s.c0.length - n * w := by
  induction n with
  | zero => simp [passesFrom]
  | succ n ih =>
    rw [passesFrom_succ, runDescs_length sub hw _ ((passesFrom_frame sub base stride 0 n s).c0 cap h), ih, Nat.succ_mul]
    omega

/-! ### Passes of fields -/

section Passes
variable {cap : Nat} {s : State} (h : s.c0.Sound cap) {bs : List Bool} (hbs : s.c0.bits = some bs)
  {ds : List Desc} (hds : ∀ d ∈ ds, (fieldsOf d).isSome = true) {w : Nat}
  (hw : ((fieldList ds).map Field.width).sum = w) (base stride : Nat)
include h hbs hds hw

theorem passesFrom_consumes (n : Nat) : Consumes bs (n * w) s (passesFrom (descs ds) base stride 0 n s) := by
  induction n with
  | zero => rw [Nat.zero_mul]; exact .refl hbs
  | succ n ih =>
    rw [passesFrom_succ, Nat.succ_mul, runDescs_eq_fetchFields hds, ← hw]
    rw [← hw] at ih
    exact ih.trans (State.fetchFields_consumes (ih.sound cap h) ih.bits _ _)

/-- Each field of each pass lands in its own slot, and no later pass names it. -/
theorem passesFrom_recWord (hnodup : ((fieldList ds).map Field.slot).Nodup) {lo : Nat}
    (hlo : ∀ f ∈ fieldList ds, lo ≤ f.slot ∧ f.slot < lo + stride) (n : Nat) {i k : Nat} (hi : i < n)
    (hk : k < (fieldList ds).length) (hin : base + i * stride + (fieldList ds)[k].slot < s.cfg.recWords) :
    (passesFrom (descs ds) base stride 0 n s).recWord (base + i * stride + (fieldList ds)[k].slot) =
      (fieldList ds)[k].word
        (numberOf (takeStream (bs.drop (i * w + bitsBefore (fieldList ds) k)) (fieldList ds)[k].width)) := by
  induction n with
  | zero => omega
  | succ n ih =>
    have hprev := passesFrom_consumes h hbs hds hw base stride n
    rw [passesFrom_succ, runDescs_eq_fetchFields hds]
    obtain rfl | hlt := Nat.eq_or_lt_of_le (Nat.le_of_lt_succ hi)
    · rw [State.fetchFields_recWord (hprev.sound cap h) hprev.bits hnodup hk (by rw [hprev.recWords]; exact hin),
        List.drop_drop]
    · refine (State.fetchFields_other _ fun f hf heq => ?_).trans (ih hlt)
      have hthis := hlo _ (List.getElem_mem hk)
      have hf := hlo f hf
      have hpass : (i + 1) * stride ≤ n * stride := Nat.mul_le_mul_right _ hlt
      rw [Nat.succ_mul] at hpass
      omega

end Passes

/-! ### Lists of unsigned fields -/

/-- U(w, s) as a field. -/
def unsignedField (f : Nat × Nat) : Field := ⟨f.2, f.1, .unsigned⟩

theorem fieldList_unsigned (fields : List (Nat × Nat)) :
    fieldList (fields.map (fun f => .u f.1 f.2)) = fields.map unsignedField := by
  induction fields with
  | nil => rfl
  | cons f fields ih => exact congrArg (unsignedField f :: ·) ih

theorem bitsBefore_unsigned (fields : List (Nat × Nat)) (k : Nat) :
    bitsBefore (fields.map unsignedField) k = ((fields.take k).map Prod.fst).sum := by
  rw [bitsBefore, ← List.map_take, List.map_map]
  rfl

theorem bitsBefore_add_width_le {fs : List Field} {k : Nat} (hk : k < fs.length) :
    bitsBefore fs k + fs[k].width ≤ (fs.map Field.width).sum := by
  have hsum := List.sum_take_add_sum_drop (fs.map Field.width) (k + 1)
  rw [← List.map_take, List.take_succ_eq_append_getElem hk, List.map_append, List.sum_append] at hsum
  simp only [List.map_cons, List.map_nil, List.sum_cons, List.sum_nil] at hsum
  rw [bitsBefore]
  omega

theorem width?_of_fieldsOf {d : Desc} {fs : List Field} (h : fieldsOf d = some fs) :
    d.width? = some (fs.map Field.width).sum := by
  cases d with
  | u | s | lat27 | lon28 | lat17 | lon18 => cases h; rfl
  | text k t =>
    cases h
    have := bitsBefore_textFields t (Nat.le_refl k)
    rw [bitsBefore, List.take_of_length_le (by simp [textFields])] at this
    exact congrArg some this.symm
  | skip | flagor | sel | case | rept | residual => cases h

theorem width?_eq_sum {ds : List Desc} (h : ∀ d ∈ ds, (fieldsOf d).isSome = true) :
    (descs ds).width? = some ((fieldList ds).map Field.width).sum := by
  induction ds with
  | nil => rfl
  | cons d ds ih =>
    obtain ⟨fs, hfs⟩ := Option.isSome_iff_exists.mp (h d (.head _))
    have hlist : fieldList (d :: ds) = fs ++ fieldList ds := by simp [fieldList, hfs]
    simp only [descs, Descs.width?, width?_of_fieldsOf hfs, ih fun e he => h e (.tail _ he), hlist, List.map_append,
      List.sum_append]

/-- Settles O46: the loop's passes are counted by the bits left, and later passes and the count write other slots. -/
theorem repeatReadsWhatFits : Obligations.RepeatReadsWhatFits := by
  intro s c max stride base w sub hsound hw hpos _ hin n passes t
  have hpasses : passes = passesFrom sub base stride 0 n s := by
    simp only [passes, passesFrom, List.range_eq_range']
  have ht : t = passes.putRec (base + c) (BitVec.ofNat 32 n) := by
    have hwidth : sub.width = w := by rw [Descs.width, hw]; rfl
    simp only [t, runDesc, hwidth]
    rw [repeatLoop_eq hw hpos base stride max 0 hsound, Nat.zero_add, hpasses]
  have hframe := passesFrom_frame sub base stride 0 n s
  rw [← hpasses] at hframe
  have hcount (slot : Nat) : t.recWord slot = if slot = base + c then BitVec.ofNat 32 n else passes.recWord slot := by
    rw [ht]
    exact State.recWord_putRec_inside (by rw [hframe.cfg]; exact hin) _ slot
  refine ⟨hcount, by rw [ht]; exact passes.putRec_eq _ _, ?_, ?_⟩
  · rw [ht, State.putRec_c0, hpasses, passesFrom_length hw base stride n hsound]
  · intro fields lo bs hsub hnodup hlo hc hbs i k hk hi hslot
    have hfl : fieldList (fields.map (fun f => .u f.1 f.2)) = fields.map unsignedField := fieldList_unsigned fields
    have hds : ∀ d ∈ fields.map (fun f => Desc.u f.1 f.2), (fieldsOf d).isSome = true :=
      List.forall_mem_map.mpr fun _ _ => rfl
    have hsum : ((fields.map unsignedField).map Field.width).sum = w := by
      have := width?_eq_sum hds
      rw [← hsub, hw, hfl] at this
      exact (Option.some.inj this).symm
    have hland := passesFrom_recWord hsound hbs hds (w := w) (by rw [hfl, hsum]) base stride (lo := lo)
      (by rw [hfl, List.map_map]; exact hnodup) (by rw [hfl]; exact List.forall_mem_map.mpr hlo) n hi (k := k)
      (by rw [hfl, List.length_map]; exact hk)
    simp only [hfl, ← hsub, List.getElem_map, unsignedField, Field.word, bitsBefore_unsigned, ← hpasses] at hland
    have hne : base + i * stride + fields[k].2 ≠ base + c := by
      have hf := hlo _ (List.getElem_mem hk)
      have hmax : (i + 1) * stride ≤ max * stride := Nat.mul_le_mul_right _ (by omega)
      rw [Nat.succ_mul] at hmax
      omega
    have hfit : n * w ≤ bs.length := by
      rw [← Cursor.length_of_bits hbs]
      exact (Nat.mul_le_mul_right w (Nat.min_le_right _ _)).trans (Nat.div_mul_le_self _ _)
    have hpass : (i + 1) * w ≤ n * w := Nat.mul_le_mul_right w hi
    have hwidth := bitsBefore_add_width_le (fs := fields.map unsignedField) (k := k) (by simpa using hk)
    rw [bitsBefore_unsigned, hsum, List.getElem_map, unsignedField] at hwidth
    rw [Nat.succ_mul] at hpass
    rw [hcount, if_neg hne, hland hslot, takeStream_eq_take (by rw [List.length_drop]; dsimp only at hwidth; omega)]

end Sys2Proof.Machine
end

section
/-! SUPPORT. DECODE's statements (spec/44_decoders.md R184 to R194): the tag and what its fetch leaves, the four ways
DECODE goes on, the slots and the cursor copy a layout can write, and the type 24 form. -/

namespace Sys2Proof.Machine

/-! ### The tag (R184) -/

/-- The tag DECODE reads: 0 of an empty payload, else the group of the first character. -/
def State.firstTag (s : State) : Sextet :=
  match s.c0.buf with
  | [] => 0#6
  | ch :: _ => (group ch (s.fetchSt .c0)).1

/-- The payload begins with an invalid character. -/
def State.badHead (s : State) : Bool := s.c0.buf.head?.any (fun ch => (armor6 ch).isNone)

/-- What DECODE leaves of a state where the tag is read. -/
def State.tagged (s : State) : State :=
  { s with
    c0 := { buf := s.c0.buf, pos := min 1 s.c0.buf.length, rem := 0#6, remBits := 0#3 }
    tag := s.firstTag, y0 := BitVec.ofNat 64 s.firstTag.toNat, draws := s.draws + s.badHead.toNat
    status := { s.status with badchar := s.status.badchar || s.badHead } }

theorem State.firstTag_of_empty {s : State} (h : s.c0.buf = []) : s.firstTag = 0#6 := by rw [firstTag, h]

theorem group_of_armor6 {ch : Byte} {g : Sextet} (h : armor6 ch = some g) (f : FetchSt) : (group ch f).1 = g := by
  rw [group, h]

theorem State.firstTag_of_valid {s : State} {ch : Byte} {g : Sextet} (hch : s.c0.buf.head? = some ch)
    (hg : armor6 ch = some g) : s.firstTag = g := by
  obtain ⟨rest, hbuf⟩ := List.head?_eq_some_iff.mp hch
  rw [firstTag, hbuf]
  exact group_of_armor6 hg _

/-- DECODE's first steps are one fetch from the payload's start, which takes the whole first group or finds none. -/
theorem State.decodeTag_eq (s : State) : s.decodeTag = (s.firstTag.toNat, s.tagged) := by
  have hfetch : (s.setCursor .c0 s.c0.rewind).fetch .c0 6 =
      (s.firstTag.toNat, { s.tagged with tag := s.tag, y0 := s.y0 }) := by
    rcases hbuf : s.c0.buf with _ | ⟨ch, rest⟩
    · simp [fetch, fetchBits, fetchLoop, firstTag, tagged, badHead, Cursor.rewind, hbuf]
    · cases hg : armor6 ch <;>
        simp [fetch, fetchBits, fetchLoop, firstTag, tagged, badHead, Cursor.rewind, hbuf, group, hg, fetchSt]
  rw [decodeTag, readTag, hfetch]
  simp [zext64, setTag, setY0, tagged]

theorem State.tagged_sound (s : State) : s.tagged.c0.Sound s.c0.buf.length :=
  ⟨Nat.min_le_right _ _, Nat.le_refl _, Nat.zero_le _, Nat.one_pos⟩

/-! ### The ways DECODE goes on (R184, R187, R189) -/

/-- The state the descriptors start from: zero-filled where the layout says so, the tag in REC[0]. -/
def State.recordStart (s : State) (l : Layout) : State :=
  (if l.zeroFill then s.tagged.clearRec else s.tagged).putRec 0 (BitVec.ofNat 32 s.firstTag.toNat)

/-- The state after the descriptors of a layout. -/
def State.filled (s : State) (l : Layout) : State := runDescs l.descs 0 (s.recordStart l)

section Live
variable {s : State} (h : s.status.fault = false)
include h

theorem exec_decode_tagged : exec .decode s =
    if s.firstTag.toNat ∈ s.cfg.knownTags then
      match s.cfg.layouts.lookup s.firstTag.toNat with
      | none => .refused .noLayout
      | some l =>
        .next (if l.len.ok (6 * s.c0.buf.length) then (s.filled l).setLast .ok else s.tagged.setLast .lengthErr)
    else .next (s.tagged.setLast .unknownType) := by
  rw [exec_decode_live h, s.decodeTag_eq]
  exact if_congr List.contains_iff_mem rfl rfl

theorem exec_decode_unknown (hk : s.firstTag.toNat ∉ s.cfg.knownTags) :
    exec .decode s = .next (s.tagged.setLast .unknownType) := (exec_decode_tagged h).trans (if_neg hk)

theorem exec_decode_noLayout (hk : s.firstTag.toNat ∈ s.cfg.knownTags)
    (hl : s.cfg.layouts.lookup s.firstTag.toNat = none) : exec .decode s = .refused .noLayout := by
  rw [exec_decode_tagged h, if_pos hk, hl]

theorem exec_decode_layout (hk : s.firstTag.toNat ∈ s.cfg.knownTags) {l : Layout}
    (hl : s.cfg.layouts.lookup s.firstTag.toNat = some l) : exec .decode s =
      .next (if l.len.ok (6 * s.c0.buf.length) then (s.filled l).setLast .ok else s.tagged.setLast .lengthErr) := by
  rw [exec_decode_tagged h, if_pos hk, hl]

/-- A DECODE that completes either stops before the record or fills it. -/
theorem exec_decode_next {t : State} (ht : exec .decode s = .next t) :
    t = s.tagged.setLast .unknownType ∨ t = s.tagged.setLast .lengthErr ∨
      ∃ l, s.cfg.layouts.lookup s.firstTag.toNat = some l ∧ t = (s.filled l).setLast .ok := by
  by_cases hk : s.firstTag.toNat ∈ s.cfg.knownTags
  · rcases hl : s.cfg.layouts.lookup s.firstTag.toNat with _ | l
    · rw [exec_decode_noLayout h hk hl] at ht
      cases ht
    · rw [exec_decode_layout h hk hl] at ht
      cases ht
      split
      · exact .inr (.inr ⟨l, rfl, rfl⟩)
      · exact .inr (.inl rfl)
  · rw [exec_decode_unknown h hk] at ht
    cases ht
    exact .inl rfl

end Live

theorem State.recordStart_frame (s : State) (l : Layout) : DecFrame s.tagged (s.recordStart l) := by
  unfold recordStart
  refine DecFrame.trans ?_ (.ofPutRec _ _ _)
  split
  · exact .ofClearRec _
  · exact .refl _

theorem State.filled_frame (s : State) (l : Layout) : DecFrame s.tagged (s.filled l) :=
  (s.recordStart_frame l).trans (runDescs_frame _ _ _)

/-- A DECODE that answers OK filled the record by the layout of its tag. -/
theorem exec_decode_ok {s t : State} (h : s.status.fault = false) (ht : exec .decode s = .next t)
    (hlast : t.status.last = 0#4) {l : Layout} (hl : s.cfg.layouts.lookup t.tag.toNat = some l) :
    t.tag = s.firstTag ∧ t = (s.filled l).setLast .ok := by
  obtain rfl | rfl | ⟨l', hl', rfl⟩ := exec_decode_next h ht
  · cases hlast
  · cases hlast
  · have htag : ((s.filled l').setLast .ok).tag = s.firstTag := (s.filled_frame l').tag
    rw [htag, hl'] at hl
    cases hl
    exact ⟨htag, rfl⟩

/-- Whatever DECODE answers, it leaves the tag in TAG and Y0. -/
theorem exec_decode_tag {s t : State} (h : s.status.fault = false) (ht : exec .decode s = .next t) :
    t.tag = s.firstTag ∧ t.y0 = BitVec.ofNat 64 s.firstTag.toNat := by
  obtain rfl | rfl | ⟨l, -, rfl⟩ := exec_decode_next h ht
  · exact ⟨rfl, rfl⟩
  · exact ⟨rfl, rfl⟩
  · exact ⟨(s.filled_frame l).tag, (s.filled_frame l).y0⟩

/-- A payload whose first character is valid, or that is empty, fixes the tag. -/
theorem State.firstTag_congr {s t : State} (hbuf : t.c0.buf = s.c0.buf)
    (hvalid : ∀ ch ∈ s.c0.buf.head?, (armor6 ch).isSome = true) : t.firstTag = s.firstTag := by
  rcases hs : s.c0.buf with _ | ⟨ch, rest⟩
  · rw [firstTag_of_empty hs, firstTag_of_empty (hbuf.trans hs)]
  · have hch : s.c0.buf.head? = some ch := by rw [hs]; rfl
    obtain ⟨g, hg⟩ := Option.isSome_iff_exists.mp (hvalid ch hch)
    rw [firstTag_of_valid hch hg, firstTag_of_valid (by rw [hbuf, hch]) hg]

/-- Settles O40: both commands read the group of the same valid first character, or 0. -/
theorem dispatchAndDecodeAgreeOnTheTag : Obligations.DispatchAndDecodeAgreeOnTheTag := by
  intro s t u hlive hpos hrem hbits hvalid ht hu
  have hrewound : s.setCursor .c0 s.c0.rewind = s := by
    rw [Cursor.rewind, ← hrem, ← hbits, ← hpos]
    rfl
  have hread : s.readTag = (s.firstTag.toNat, s.tagged) := by rw [← s.decodeTag_eq, State.decodeTag, hrewound]
  obtain ⟨r, rfl⟩ : ∃ r, t = s.tagged.setLast r := by
    rw [exec_dispatch_live hlive, hread] at ht
    cases ht
    exact ⟨_, rfl⟩
  obtain ⟨htag, hy0⟩ := exec_decode_tag (s := s.tagged.setLast r) hlive hu
  rw [show (s.tagged.setLast r).firstTag = s.firstTag from State.firstTag_congr rfl hvalid] at htag hy0
  exact ⟨htag, hy0⟩

theorem LenRule.ok_iff (r : LenRule) (n : Nat) : r.ok n = true ↔
    match r with
    | .exact b => n = b
    | .range lo hi => lo ≤ n ∧ n ≤ hi := by
  cases r <;> simp [LenRule.ok]

/-- Settles O41: the tag comes from one fetch, and each stop leaves the state of that fetch. -/
theorem decodeStopsBeforeTheRecord : Obligations.DecodeStopsBeforeTheRecord := by
  intro s hlive bad
  refine ⟨s.firstTag, State.firstTag_of_empty, fun ch g => State.firstTag_of_valid, ?_⟩
  refine ⟨exec_decode_unknown hlive, exec_decode_noLayout hlive, fun l hk hl hlen => ?_⟩
  have hbad : ¬ l.len.ok (6 * s.c0.buf.length) = true := by
    rw [LenRule.ok_iff]
    cases hrule : l.len <;> rw [hrule] at hlen <;> dsimp only at hlen ⊢ <;> omega
  rw [exec_decode_layout hlive hk hl, if_neg hbad]
  rfl

/-! ### The slots a layout can write (R178) -/

/-- What every pass of a REPEAT keeps, its loop keeps. -/
theorem repeatLoop_keeps {α : Type} (F : State → α) {run : Nat → State → State} (width : Nat) {base stride : Nat}
    {rounds i : Nat} (h : ∀ k, i ≤ k → k < i + rounds → ∀ s, F (run (base + k * stride) s) = F s) (s : State) :
    F (repeatLoop run width base stride rounds i s).2 = F s := by
  induction rounds generalizing i s with
  | zero => rfl
  | succ rounds ih =>
    unfold repeatLoop
    split
    · rw [ih (fun k hk hlt => h k (by omega) (by omega)), h i (Nat.le_refl i) (by omega)]
    · rfl

theorem State.recWord_putRec_ne {s : State} {i j : Nat} (h : j ≠ i) (v : Word) :
    (s.putRec i v).recWord j = s.recWord j := (s.recWord_putRec i j v).trans (if_neg fun hand => h hand.1)

theorem slots_of_fieldsOf {d : Desc} {fs : List Field} (h : fieldsOf d = some fs) (base : Nat) :
    d.slots base = fs.map (fun f => base + f.slot) := by
  cases d with
  | u | s | lat27 | lon28 | lat17 | lon18 => cases h; rfl
  | text k t => cases h; simp [Desc.slots, List.range'_eq_map_range, Function.comp_def, Nat.add_assoc]
  | skip | flagor | sel | case | rept | residual => cases h

/-- A descriptor that only reads fields writes its slots only. -/
theorem runDesc_other_of_fieldsOf {d : Desc} {fs : List Field} (hd : fieldsOf d = some fs) {base j : Nat}
    (h : j ∉ d.slots base) (s : State) : (runDesc d base s).recWord j = s.recWord j := by
  rw [slots_of_fieldsOf hd] at h
  rw [runDesc_eq_fetchFields hd]
  exact s.fetchFields_other fun f hf heq => h (heq ▸ List.mem_map_of_mem hf)

mutual
/-- A descriptor leaves the slots it cannot write. -/
theorem runDesc_other (d : Desc) {base j : Nat} (h : j ∉ d.slots base) (s : State) :
    (runDesc d base s).recWord j = s.recWord j := by
  cases d with
  | u | s | lat27 | lon28 | lat17 | lon18 | text => exact runDesc_other_of_fieldsOf rfl h s
  | skip w => rw [runDesc, State.recWord, State.skipBits_recMem, (State.skipBits_frame w w s).resets]; rfl
  | flagor t m => rw [runDesc]; exact State.recWord_putRec_ne (List.ne_of_not_mem_cons h) _
  | sel f d0 d1 =>
    obtain ⟨h0, h1⟩ := not_or.mp fun hor => h (List.mem_append.mpr hor)
    simp only [runDesc]
    split
    · exact runDescs_other d0 h0 s
    · exact runDescs_other d1 h1 s
  | case f arms dflt =>
    obtain ⟨harms, hdflt⟩ := not_or.mp fun hor => h (List.mem_append.mpr hor)
    rw [runDesc]
    exact runArms_other arms harms _ (runDescs_other dflt hdflt) s
  | rept c max sub stride =>
    obtain ⟨hcount, hpasses⟩ := not_or.mp fun hor => h (List.mem_cons.mpr hor)
    rw [runDesc]
    refine (State.recWord_putRec_ne hcount _).trans (repeatLoop_keeps (·.recWord j) _ (fun k _ hk => ?_) s)
    refine runDescs_other sub fun hmem => hpasses (List.mem_flatMap.mpr ⟨k, List.mem_range.mpr ?_, hmem⟩)
    omega
  | residual t => rw [runDesc]; exact State.recWord_putRec_ne (List.ne_of_not_mem_cons h) _

/-- A list of descriptors leaves the slots it cannot write. -/
theorem runDescs_other (ds : Descs) {base j : Nat} (h : j ∉ ds.slots base) (s : State) :
    (runDescs ds base s).recWord j = s.recWord j := by
  cases ds with
  | nil => rfl
  | cons d ds =>
    obtain ⟨hd, hds⟩ := not_or.mp fun hor => h (List.mem_append.mpr hor)
    rw [runDescs, runDescs_other ds hds, runDesc_other d hd]

/-- The arms of a CASE leave the slots neither they nor its default can write. -/
theorem runArms_other (arms : Arms) {base j : Nat} (h : j ∉ arms.slots base) (v : Word) {dflt : State → State}
    (hdflt : ∀ s, (dflt s).recWord j = s.recWord j) (s : State) :
    (runArms arms v dflt base s).recWord j = s.recWord j := by
  cases arms with
  | nil => exact hdflt s
  | cons value ds rest =>
    obtain ⟨hds, hrest⟩ := not_or.mp fun hor => h (List.mem_append.mpr hor)
    rw [runArms]
    split
    · exact runDescs_other ds hds s
    · exact runArms_other rest hrest v hdflt s
end

/-! ### C1 (R192) -/

theorem State.fetch_c0_c1 (s : State) (n : Nat) : (s.fetch .c0 n).2.c1 = s.c1 := (s.fetch_frame .c0 n).other

theorem State.fetchFields_c1 (s : State) (base : Nat) (fs : List Field) : (s.fetchFields base fs).c1 = s.c1 := by
  induction fs generalizing s with
  | nil => rfl
  | cons f fs ih => exact (ih _).trans ((State.putRec_c1 ..).trans (s.fetch_c0_c1 f.width))

theorem State.skipBits_c1 (fuel w : Nat) (s : State) : (State.skipBits fuel w s).c1 = s.c1 := by
  induction fuel generalizing w s with
  | zero => rfl
  | succ fuel ih =>
    unfold State.skipBits
    split
    · rfl
    · rw [ih, State.fetch_c0_c1]

mutual
/-- A descriptor without a RESIDUAL leaves C1. -/
theorem runDesc_c1 (d : Desc) (h : d.anyKind Desc.isResidual = false) (base : Nat) (s : State) :
    (runDesc d base s).c1 = s.c1 := by
  cases d with
  | u | s | lat27 | lon28 | lat17 | lon18 | text => rw [runDesc_eq_fetchFields rfl]; exact s.fetchFields_c1 base _
  | skip w => rw [runDesc, State.skipBits_c1]
  | flagor t m => rw [runDesc, State.putRec_c1]
  | sel f d0 d1 =>
    simp only [Desc.anyKind, Bool.or_eq_false_iff] at h
    obtain ⟨⟨-, h0⟩, h1⟩ := h
    simp only [runDesc]
    split
    · exact runDescs_c1 d0 h0 base s
    · exact runDescs_c1 d1 h1 base s
  | case f arms dflt =>
    simp only [Desc.anyKind, Bool.or_eq_false_iff] at h
    obtain ⟨⟨-, harms⟩, hdflt⟩ := h
    rw [runDesc]
    exact runArms_c1 arms harms base _ (runDescs_c1 dflt hdflt base) s
  | rept c max sub stride =>
    simp only [Desc.anyKind, Bool.or_eq_false_iff] at h
    obtain ⟨-, hsub⟩ := h
    rw [runDesc]
    exact (State.putRec_c1 ..).trans (repeatLoop_keeps State.c1 _ (fun k _ _ => runDescs_c1 sub hsub _) s)
  | residual t => cases h

/-- A list of descriptors without a RESIDUAL leaves C1. -/
theorem runDescs_c1 (ds : Descs) (h : ds.anyKind Desc.isResidual = false) (base : Nat) (s : State) :
    (runDescs ds base s).c1 = s.c1 := by
  cases ds with
  | nil => rfl
  | cons d ds =>
    obtain ⟨hd, hds⟩ := Bool.or_eq_false_iff.mp h
    rw [runDescs, runDescs_c1 ds hds, runDesc_c1 d hd]

/-- The arms of a CASE without a RESIDUAL leave C1. -/
theorem runArms_c1 (arms : Arms) (h : arms.anyKind Desc.isResidual = false) (base : Nat) (v : Word)
    {dflt : State → State} (hdflt : ∀ s, (dflt s).c1 = s.c1) (s : State) :
    (runArms arms v dflt base s).c1 = s.c1 := by
  cases arms with
  | nil => exact hdflt s
  | cons value ds rest =>
    obtain ⟨hds, hrest⟩ := Bool.or_eq_false_iff.mp h
    rw [runArms]
    split
    · exact runDescs_c1 ds hds base s
    · exact runArms_c1 rest hrest base v hdflt s
end

/-! ### A filled record -/

theorem State.recordStart_recWord {s : State} (l : Layout) {slot : Nat} (hslot : slot < s.cfg.recWords) :
    (s.recordStart l).recWord slot =
      if slot = 0 then BitVec.ofNat 32 s.firstTag.toNat else if l.zeroFill then 0#32 else s.recWord slot := by
  unfold recordStart
  split
  · rw [State.recWord_putRec_inside (by exact Nat.zero_lt_of_lt hslot), State.recWord_clearRec _ _ (by exact hslot)]
  · rw [State.recWord_putRec_inside (by exact Nat.zero_lt_of_lt hslot)]
    rfl

theorem State.recordStart_c1 (s : State) (l : Layout) : (s.recordStart l).c1 = s.c1 := by
  rw [recordStart, State.putRec_c1]
  split <;> rfl

theorem DecFrame.eq {s u : State} (h : DecFrame s u) : u = { s with
    c0 := u.c0, c1 := u.c1, recMem := u.recMem, draws := u.draws
    status := { s.status with badchar := u.status.badchar } } := by
  rw [← h.cfg, ← h.rs, ← h.tag, ← h.argA, ← h.argB, ← h.lineLen, ← h.y0, ← h.y1, ← h.lineMem, ← h.host, ← h.resets,
    ← h.status]

/-- What DECODE changes where it fills the record. -/
theorem State.filled_rest (s : State) (l : Layout) : (s.filled l).setLast .ok = { s with
    c0 := (s.filled l).c0, c1 := (s.filled l).c1, tag := s.firstTag, y0 := BitVec.ofNat 64 s.firstTag.toNat
    recMem := (s.filled l).recMem, draws := (s.filled l).draws
    status := { s.status with last := 0#4, badchar := (s.filled l).status.badchar } } := by
  have h := (s.filled_frame l).eq
  generalize s.filled l = u at h
  rw [h]
  rfl

/-- Settles O44: the descriptors' slots, and the frame of the tag's fetch, the zero-fill and the descriptors. -/
theorem decodeWritesOnlyTheLayoutsSlots : Obligations.DecodeWritesOnlyTheLayoutsSlots := by
  intro s hlive
  refine ⟨fun tag l hhead hk hl hlen => ?_, fun hall => ?_, fun t l ht hlast hl => ?_⟩
  · have htag : s.firstTag = tag := by
      obtain ⟨hempty, rfl⟩ | ⟨ch, hch, hg⟩ := hhead
      · exact State.firstTag_of_empty hempty
      · exact State.firstTag_of_valid hch hg
    subst htag
    refine ⟨_, (exec_decode_layout hlive hk hl).trans (congrArg _ (if_pos ((LenRule.ok_iff _ _).mpr hlen))), ?_, rfl⟩
    exact (s.filled_frame l).tag
  · by_cases hk : s.firstTag.toNat ∈ s.cfg.knownTags
    · obtain ⟨l, hl⟩ := Option.isSome_iff_exists.mp (hall _ hk)
      exact ⟨_, exec_decode_layout hlive hk hl⟩
    · exact ⟨_, exec_decode_unknown hlive hk⟩
  · obtain ⟨htag, rfl⟩ := exec_decode_ok hlive ht hlast hl
    have hframe := s.filled_frame l
    refine ⟨fun slot hslot hnot => ?_, fun hres => ?_, hframe.buf, fun hbad => hframe.badchar ?_, ?_⟩
    · rw [htag]
      exact (runDescs_other l.descs hnot _).trans (s.recordStart_recWord l hslot)
    · exact (runDescs_c1 l.descs hres 0 _).trans (s.recordStart_c1 l)
    · rw [State.tagged]
      simp [hbad]
    · rw [htag]
      exact s.filled_rest l

/-! ### Lists in pieces (R176) -/

theorem descs_toList (ds : Descs) : descs ds.toList = ds := by
  cases ds with
  | nil => rfl
  | cons d ds => exact congrArg (Descs.cons d) (descs_toList ds)

@[simp] theorem toList_descs (ds : List Desc) : (descs ds).toList = ds := by
  induction ds with
  | nil => rfl
  | cons d ds ih => exact congrArg (d :: ·) ih

theorem runDescs_append (xs ys : List Desc) (base : Nat) (s : State) :
    runDescs (descs (xs ++ ys)) base s = runDescs (descs ys) base (runDescs (descs xs) base s) := by
  induction xs generalizing s with
  | nil => rfl
  | cons d xs ih => exact ih _

theorem mem_slots_descs {ds : List Desc} {base j : Nat} : j ∈ (descs ds).slots base ↔ ∃ d ∈ ds, j ∈ d.slots base := by
  induction ds with
  | nil => simp [descs, Descs.slots]
  | cons d ds ih => rw [descs, Descs.slots, List.mem_append, ih, List.exists_mem_cons_iff]

/-- RESIDUAL leaves C1 a copy of C0, and C0's bits left in its slot (R192). -/
theorem State.residualTo_spec {s : State} {t : Nat} (ht : t < s.cfg.recWords) :
    (s.residualTo t).c1 = (s.residualTo t).c0 ∧
      (s.residualTo t).recWord t = BitVec.ofNat 32 (s.residualTo t).c0.length := by
  have hc0 : (s.residualTo t).c0 = s.c0 := State.putRec_c0 ..
  exact ⟨rfl, by rw [hc0]; exact (State.recWord_putRec_inside ht _ t).trans (if_pos rfl)⟩

/-- Settles O45: the last descriptor is the RESIDUAL. -/
theorem residualHandsTheRestToC1 : Obligations.ResidualHandsTheRestToC1 := by
  intro s t l slot hlive ht hlast hl hresidual hslot
  obtain ⟨-, rfl⟩ := exec_decode_ok hlive ht hlast hl
  obtain ⟨front, hfront⟩ := List.getLast?_eq_some_iff.mp hresidual
  have hfilled : s.filled l = (runDescs (descs front) 0 (s.recordStart l)).residualTo slot := by
    rw [State.filled, ← descs_toList l.descs, hfront, runDescs_append, descs, descs, runDescs, runDescs, runDesc,
      Nat.zero_add]
  have hcfg := ((s.recordStart_frame l).trans (runDescs_frame (descs front) 0 _)).cfg
  have hspec := State.residualTo_spec (s := runDescs (descs front) 0 (s.recordStart l)) (t := slot)
    (by rw [hcfg]; exact hslot)
  rw [← hfilled] at hspec
  exact hspec

/-! ### Type 24 (R193) -/

/-- A header that meets `partNumberOk` has a U(2, p) after which nothing writes slot p. -/
theorem exists_partNumber {header : List Desc} {p : Nat} (h : partNumberOk header p = true) :
    ∃ before after, header = before ++ .u 2 p :: after ∧ p ∉ (descs after).slots 0 := by
  obtain ⟨writers, hwriters⟩ := List.getLast?_eq_some_iff.mp (eq_of_beq h)
  obtain ⟨front, rest, rfl, -, hrest⟩ := List.filter_eq_append_iff.mp hwriters
  obtain ⟨mid, after, rfl, -, -, hafter⟩ := List.filter_eq_cons_iff.mp hrest
  refine ⟨front ++ mid, after, (List.append_assoc ..).symm, fun hp => ?_⟩
  obtain ⟨d, hd, hp⟩ := mem_slots_descs.mp hp
  exact (List.filter_eq_nil_iff.mp hafter) d hd (List.contains_iff_mem.mpr hp)

/-- The header leaves a two-bit part number in slot p. -/
theorem partNumber_lt {cap : Nat} {header : List Desc} {p : Nat} (h : partNumberOk header p = true) {s : State}
    (hsound : s.c0.Sound cap) (hp : p < s.cfg.recWords) : ((runDescs (descs header) 0 s).recWord p).toNat < 4 := by
  obtain ⟨before, after, rfl, hafter⟩ := exists_partNumber h
  have hframe := runDescs_frame (descs before) 0 s
  have hv := State.fetch_lt (c := .c0) (hframe.c0 cap hsound) 2
  rw [runDescs_append, descs, runDescs, runDescs_other _ hafter, runDesc, Nat.zero_add, State.fetchTo,
    State.recWord_putRec, if_pos ⟨rfl, by rw [(DecFrame.ofFetch _ 2).cfg, hframe.cfg]; exact hp⟩, BitVec.toNat_ofNat]
  omega

/-- A half of a type 24 layout ORs its bit into the flags slot; elsewhere it is its list. -/
theorem runDescs_half_recWord {half : List Desc} {g : Nat} (m : Word) (hg : g ∉ (descs half).slots 0) {s : State}
    (hin : g < s.cfg.recWords) (j : Nat) : (runDescs (descs (half ++ [.flagor g m])) 0 s).recWord j =
      if j = g then s.recWord g ||| m else (runDescs (descs half) 0 s).recWord j := by
  have hcfg := (runDescs_frame (descs half) 0 s).cfg
  rw [runDescs_append, descs, descs, runDescs, runDescs, runDesc, Nat.zero_add, runDescs_other _ hg]
  exact State.recWord_putRec_inside (by rw [hcfg]; exact hin) _ j

/-- The layout of the type 24 form. -/
def type24Layout (len : LenRule) (header a b : List Desc) (p g : Nat) : Layout :=
  ⟨len, false, descs (header ++ [.case p (.cons 0#32 (descs (a ++ [.flagor g 1#32]))
    (.cons 1#32 (descs (b ++ [.flagor g 2#32])) .nil)) .nil])⟩

theorem Layout.wf_of_lookup {c : Config} (hwf : c.wf = true) {tag : Nat} {l : Layout}
    (hl : c.layouts.lookup tag = some l) : l.wf c.recWords tag = true := by
  obtain ⟨before, after, heq, -⟩ := List.lookup_eq_some_iff.mp hl
  simp only [Config.wf, Bool.and_eq_true, List.all_eq_true] at hwf
  obtain ⟨⟨-, hlayouts⟩, -⟩ := hwf
  exact (hlayouts (tag, l) (by rw [heq]; simp)).2

/-- What the configuration check demands of a layout of the type 24 form (R181, R193). -/
theorem type24Layout_wf {len : LenRule} {header a b : List Desc} {p g recWords : Nat}
    (h : (type24Layout len header a b p g).wf recWords 24 = true) :
    (∀ j ∈ (type24Layout len header a b p g).descs.slots 0, 1 ≤ j ∧ j < recWords) ∧ partNumberOk header p = true ∧
      g ∉ (descs header).slots 0 ∧ g ∉ (descs a).slots 0 ∧ g ∉ (descs b).slots 0 := by
  simp only [Layout.wf, Bool.and_eq_true, List.all_eq_true, decide_eq_true_eq] at h
  obtain ⟨⟨⟨⟨⟨hslots, -⟩, -⟩, -⟩, -⟩, hform⟩ := h
  simp only [Layout.tagOk, Bool.and_eq_true, Bool.or_eq_true] at hform
  obtain ⟨⟨⟨-, hform⟩, -⟩, -⟩ := hform
  have hparts : partNumberOk header p = true ∧ (∀ j ∈ (descs a).slots 0, j ∉ (descs b).slots 0) ∧
      g ∉ (descs header).slots 0 ∧ g ∉ (descs a).slots 0 ∧ g ∉ (descs b).slots 0 := by
    simpa [type24Ok, type24Layout, type24PartsOk] using hform.resolve_left (by decide)
  obtain ⟨hpart, -, hflags⟩ := hparts
  exact ⟨hslots, hpart, hflags⟩

/-- A layout of the type 24 form runs the header, then the half its slot p names (R178). -/
theorem State.filled_type24 (s : State) (len : LenRule) (header a b : List Desc) (p g : Nat) :
    let l := type24Layout len header a b p g
    let u := runDescs (descs header) 0 (s.recordStart l)
    s.filled l = if 0#32 = u.recWord p then runDescs (descs (a ++ [.flagor g 1#32])) 0 u
      else if 1#32 = u.recWord p then runDescs (descs (b ++ [.flagor g 2#32])) 0 u else u := by
  intro l u
  rw [State.filled, show l.descs = descs (header ++ _) from rfl, runDescs_append, descs, descs, runDescs, runDescs,
    runDesc, Nat.zero_add]
  simp only [runArms, runDescs]
  rfl

/-- The part number and the flags a well-formed layout of the type 24 form leaves (R193). -/
theorem type24Layout_flags (s : State) {len : LenRule} {header a b : List Desc} {p g : Nat}
    (hwf : (type24Layout len header a b p g).wf s.cfg.recWords 24 = true) :
    let t := s.filled (type24Layout len header a b p g)
    ∃ part : Word, part.toNat < 4 ∧
      (p ∉ (descs a).slots 0 → p ∉ (descs b).slots 0 → t.recWord p = part) ∧
      t.recWord g = if part = 0#32 then s.recWord g ||| 1#32 else if part = 1#32 then s.recWord g ||| 2#32
        else s.recWord g := by
  intro t
  obtain ⟨hslots, hpart, hgheader, hga, hgb⟩ := type24Layout_wf hwf
  set l := type24Layout len header a b p g
  have ht : t = _ := s.filled_type24 len header a b p g
  have hstart := s.recordStart_frame l
  set u := runDescs (descs header) 0 (s.recordStart l)
  have hcfg : u.cfg = s.cfg := (hstart.trans (runDescs_frame (descs header) 0 _)).cfg
  have hpheader : p ∈ (descs header).slots 0 := by
    obtain ⟨before, after, rfl, -⟩ := exists_partNumber hpart
    exact mem_slots_descs.mpr ⟨.u 2 p, by simp, by simp [Desc.slots]⟩
  have hne : p ≠ g := fun heq => hgheader (heq ▸ hpheader)
  obtain ⟨-, hpin⟩ := hslots p (mem_slots_descs.mpr
    ((mem_slots_descs.mp hpheader).imp fun d hd => ⟨List.mem_append_left _ hd.1, hd.2⟩))
  obtain ⟨hgpos, hgin⟩ := hslots g (mem_slots_descs.mpr ⟨_, List.mem_append_right _ (.head _), by
    simp [Desc.slots, Arms.slots, mem_slots_descs]⟩)
  have hflags : u.recWord g = s.recWord g := by
    rw [runDescs_other _ hgheader, s.recordStart_recWord l hgin, if_neg (Nat.ne_of_gt hgpos)]
    rfl
  rw [← hcfg] at hgin
  refine ⟨u.recWord p, partNumber_lt hpart (hstart.c0 _ s.tagged_sound) (by rw [hstart.cfg]; exact hpin), ?_, ?_⟩
  · intro hpa hpb
    rw [ht]
    split
    · rw [runDescs_half_recWord _ hga hgin, if_neg hne, runDescs_other _ hpa]
    split
    · rw [runDescs_half_recWord _ hgb hgin, if_neg hne, runDescs_other _ hpb]
    · rfl
  · rw [ht]
    split
    next h0 => rw [runDescs_half_recWord _ hga hgin, if_pos rfl, if_pos h0.symm, hflags]
    next h0 =>
      rw [if_neg (Ne.symm h0)]
      split
      next h1 => rw [runDescs_half_recWord _ hgb hgin, if_pos rfl, if_pos h1.symm, hflags]
      next h1 => rw [if_neg (Ne.symm h1), hflags]

/-- Settles O47: the header leaves the part number, the halves are told apart by it, and only their FLAGORs write g. -/
theorem type24FlagsAccumulate : Obligations.Type24FlagsAccumulate := by
  intro s t len header a b p g hlive hwf hl ht htag hlast
  obtain ⟨-, rfl⟩ := exec_decode_ok hlive ht hlast (by rw [htag]; exact hl)
  exact type24Layout_flags s (Layout.wf_of_lookup hwf hl)

end Sys2Proof.Machine
end

section
/-! SUPPORT. The two default layouts (spec/44_decoders.md R197, R198): a layout whose descriptors only read fields fills
the record field by field from the stream after the tag. -/

namespace Sys2Proof.Machine

/-! ### Where the fields lie -/

/-- The fields of a list with the place of each in the payload, the first at bit `off`. -/
def placed : (off : Nat) → List Field → List (Nat × Field)
  | _, [] => []
  | off, f :: fs => (off, f) :: placed (off + f.width) fs

theorem exists_of_mem_placed {off at' : Nat} {f : Field} {fs : List Field} (h : (at', f) ∈ placed off fs) :
    ∃ k, ∃ hk : k < fs.length, fs[k] = f ∧ at' = off + bitsBefore fs k := by
  induction fs generalizing off with
  | nil => cases h
  | cons f' fs ih =>
    obtain heq | h := List.mem_cons.mp h
    · cases heq
      exact ⟨0, Nat.succ_pos _, rfl, rfl⟩
    · obtain ⟨k, hk, hf, rfl⟩ := ih h
      exact ⟨k + 1, Nat.succ_lt_succ hk, hf, by simp [bitsBefore, Nat.add_assoc]⟩

theorem numberOf_take_lt (bs : List Bool) (n : Nat) : numberOf (bs.take n) < 2 ^ n :=
  (numberOf_lt _).trans_le (Nat.pow_le_pow_right Nat.two_pos (List.length_take_le ..))

/-- A sound cursor with at most five bits left holds them all. -/
theorem Cursor.eq_of_short_bits {cap : Nat} {x : Cursor} (h : x.Sound cap) {bs : List Bool} (hbs : x.bits = some bs)
    (hshort : bs.length ≤ 5) : x =
      { buf := x.buf, pos := x.buf.length, rem := BitVec.ofNat 6 (numberOf bs),
        remBits := BitVec.ofNat 3 bs.length } := by
  have hlen := Cursor.length_of_bits hbs
  have hpos : x.pos = x.buf.length := by
    have := h.posLe
    simp only [Cursor.length, Cursor.bufLen] at hlen this
    omega
  obtain ⟨cs, hcs, rfl⟩ := Cursor.bits_eq_some_iff.mp hbs
  rw [hpos, List.drop_length] at hcs
  cases hcs
  rw [List.append_nil, numberOf_bitsMsb h.remLt, length_bitsMsb, BitVec.ofNat_toNat, BitVec.ofNat_toNat,
    BitVec.setWidth_eq, BitVec.setWidth_eq, ← hpos]

/-! ### The tag of valid characters -/

section Valid
variable {s : State} {bs : List Bool} (hbs : charsBits s.c0.buf = some bs) (hlen : 6 ≤ bs.length)
include hbs hlen

theorem State.tagged_of_valid : s.firstTag.toNat = numberOf (bs.take 6) ∧ s.tagged.c0.bits = some (bs.drop 6) ∧
    s.badHead = false := by
  have hchars := length_charsBits hbs
  obtain ⟨ch, rest, hbuf⟩ := List.exists_cons_of_length_pos (l := s.c0.buf) (by omega)
  have hch : s.c0.buf[0]? = some ch := by rw [hbuf]; rfl
  obtain ⟨g, gs, hg, hgs, rfl⟩ := charsBits_drop_eq_some (l := s.c0.buf) (p := 0) hch hbs
  refine ⟨?_, Cursor.bits_eq_some_iff.mpr ⟨gs, ?_, ?_⟩, ?_⟩
  · rw [State.firstTag_of_valid (List.head?_eq_getElem?.trans hch) hg, List.take_left' (length_bitsMsb ..),
      numberOf_bitsMsb g.isLt]
  · rw [State.tagged, Nat.min_eq_left (by omega)]
    exact hgs
  · rw [List.drop_left' (length_bitsMsb ..)]
    rfl
  · rw [State.badHead, List.head?_eq_getElem?, hch]
    simp [hg]

end Valid

/-! ### A layout of fields -/

/-- The layout only reads fields, `ds` its descriptors, and zero-fills the record. -/
structure Flat (l : Layout) (ds : List Desc) : Prop where
  descs    : l.descs = descs ds
  fields   : ∀ d ∈ ds, (fieldsOf d).isSome = true
  nodup    : ((fieldList ds).map Field.slot).Nodup
  tag      : 0 ∉ (fieldList ds).map Field.slot
  zeroFill : l.zeroFill = true

section Flat
variable {s : State} {bs : List Bool} (hbs : charsBits s.c0.buf = some bs) (hlen : 6 ≤ bs.length) {l : Layout}
  {ds : List Desc} (hl : Flat l ds)
include hbs hlen hl

theorem State.recordStart_bits : (s.recordStart l).c0.bits = some (bs.drop 6) := by
  rw [recordStart, State.putRec_c0, if_pos hl.zeroFill]
  exact (State.tagged_of_valid hbs hlen).2.1

theorem State.filled_consumes :
    Consumes (bs.drop 6) ((fieldList ds).map Field.width).sum (s.recordStart l) (s.filled l) := by
  rw [filled, hl.descs, runDescs_eq_fetchFields hl.fields]
  exact fetchFields_consumes ((s.recordStart_frame l).c0 _ s.tagged_sound) (State.recordStart_bits hbs hlen hl) 0 _

/-- A slot holds its field's bits of the payload. -/
theorem State.filled_field {f : Field} {at' : Nat} (hf : (at', f) ∈ placed 6 (fieldList ds))
    (hslot : f.slot < s.cfg.recWords) (hend : at' + f.width ≤ bs.length) :
    (s.filled l).recWord f.slot = f.word (numberOf ((bs.drop at').take f.width)) := by
  obtain ⟨k, hk, rfl, rfl⟩ := exists_of_mem_placed hf
  have hcfg := (s.recordStart_frame l).cfg
  have hrec := fetchFields_recWord ((s.recordStart_frame l).c0 _ s.tagged_sound) (State.recordStart_bits hbs hlen hl)
    (base := 0) hl.nodup hk (by rw [hcfg, Nat.zero_add]; exact hslot)
  rw [Nat.zero_add, List.drop_drop, takeStream_eq_take (by rw [List.length_drop]; omega)] at hrec
  rw [filled, hl.descs, runDescs_eq_fetchFields hl.fields]
  exact hrec

omit hbs hlen in
/-- A slot no field names holds the tag or 0. -/
theorem State.filled_other {slot : Nat} (hslot : slot < s.cfg.recWords) (hnot : slot ∉ (fieldList ds).map Field.slot) :
    (s.filled l).recWord slot = if slot = 0 then BitVec.ofNat 32 s.firstTag.toNat else 0#32 := by
  rw [filled, hl.descs, runDescs_eq_fetchFields hl.fields, fetchFields_other, s.recordStart_recWord l hslot,
    hl.zeroFill]
  · rfl
  · rintro f hf rfl
    exact hnot (by rw [Nat.zero_add]; exact List.mem_map_of_mem hf)

/-- What DECODE changes by such a layout, where at most five bits stay unread. -/
theorem State.filled_eq {rest : List Bool} (hrest : bs.drop (6 + ((fieldList ds).map Field.width).sum) = rest)
    (hshort : rest.length ≤ 5) : (s.filled l).setLast .ok = { s with
      c0 := { buf := s.c0.buf, pos := s.c0.buf.length, rem := BitVec.ofNat 6 (numberOf rest),
              remBits := BitVec.ofNat 3 rest.length }
      tag := s.firstTag, y0 := BitVec.ofNat 64 s.firstTag.toNat, recMem := (s.filled l).recMem
      status := { s.status with last := 0#4 } } := by
  obtain ⟨-, -, hbad⟩ := State.tagged_of_valid hbs hlen
  have hc := State.filled_consumes hbs hlen hl
  have hstart : s.recordStart l = { s.tagged with recMem := (s.recordStart l).recMem } := by
    rw [recordStart, if_pos hl.zeroFill, State.putRec_eq]
    rfl
  have hbits := hc.bits
  rw [List.drop_drop, hrest] at hbits
  have hc0 := Cursor.eq_of_short_bits (hc.sound _ ((s.recordStart_frame l).c0 _ s.tagged_sound)) hbits hshort
  rw [(s.filled_frame l).buf] at hc0
  have hrest := hc.rest
  rw [hc0, hstart] at hrest
  rw [hrest]
  simp [State.setLast, State.tagged, hbad, ResultCode.code]

/-- DECODE by such a layout of a payload that leaves at most five bits unread: each field's slot holds its bits, slot 0
the tag, every other 0. -/
theorem exec_decode_flat (hlive : s.status.fault = false) {tag : Sextet} (htag : numberOf (bs.take 6) = tag.toNat)
    (hknown : tag.toNat ∈ s.cfg.knownTags) (hlookup : s.cfg.layouts.lookup tag.toNat = some l)
    (hok : l.len.ok (6 * s.c0.buf.length) = true) {rest : List Bool}
    (hrest : bs.drop (6 + ((fieldList ds).map Field.width).sum) = rest) (hshort : rest.length ≤ 5)
    (hfit : 6 + ((fieldList ds).map Field.width).sum ≤ bs.length) :
    ∃ t, exec .decode s = .next t ∧
      (∀ at' f, (at', f) ∈ placed 6 (fieldList ds) → f.slot < s.cfg.recWords →
        t.recWord f.slot = f.word (numberOf ((bs.drop at').take f.width))) ∧
      (∀ slot, slot < s.cfg.recWords → slot ∉ (fieldList ds).map Field.slot →
        t.recWord slot = if slot = 0 then BitVec.ofNat 32 tag.toNat else 0#32) ∧
      t = { s with
        c0 := { buf := s.c0.buf, pos := s.c0.buf.length, rem := BitVec.ofNat 6 (numberOf rest),
                remBits := BitVec.ofNat 3 rest.length }
        tag := tag, y0 := BitVec.ofNat 64 tag.toNat, recMem := t.recMem, status := { s.status with last := 0#4 } } := by
  obtain ⟨hfirst, -, -⟩ := State.tagged_of_valid hbs hlen
  obtain rfl : s.firstTag = tag := BitVec.eq_of_toNat_eq (hfirst.trans htag)
  refine ⟨(s.filled l).setLast .ok, (exec_decode_layout hlive hknown hlookup).trans (congrArg _ (if_pos hok)),
    fun at' f hf hslot => ?_, fun slot hslot hnot => State.filled_other hl hslot hnot,
    State.filled_eq hbs hlen hl hrest hshort⟩
  refine State.filled_field hbs hlen hl hf hslot ?_
  obtain ⟨k, hk, rfl, rfl⟩ := exists_of_mem_placed hf
  have := bitsBefore_add_width_le hk
  omega

end Flat

/-! ### The default layouts -/

/-- The descriptors of the default layout of tag 1. -/
def positionReport : List Desc :=
  [.u 2 1, .u 30 2, .u 4 3, .u 8 4, .u 10 5, .u 1 6, .lon28 7, .lat27 8, .u 12 9, .u 9 10, .u 6 11, .u 4 12, .u 1 13,
    .u 1 14, .u 2 15, .u 3 16, .u 14 17]

theorem layout1_flat : Flat layout1 positionReport :=
  ⟨rfl, by decide, by decide, by decide, rfl⟩

/-- Settles O42: the fields of the position report, placed one after another from bit 6. -/
theorem decodeFillsThePositionReport : Obligations.DecodeFillsThePositionReport := by
  intro s bs hlive hknown hlayout hrec hbs hlen htag field
  have hchars : s.c0.buf.length = 28 := by have := length_charsBits hbs; omega
  have hwidths : ((fieldList positionReport).map Field.width).sum = 162 := by decide
  obtain ⟨t, hexec, hfield, hother, ht⟩ := exec_decode_flat hbs (by omega) layout1_flat hlive (tag := 1#6) htag hknown
    hlayout (by rw [hchars]; decide) (rest := []) (by rw [hwidths]; exact List.drop_eq_nil_of_le (by omega))
    (Nat.zero_le _) (by omega)
  refine ⟨t, hexec, hother 0 (by omega) layout1_flat.tag, fun slot at' n hmem => ?_, ?_, ?_,
    fun slot hlow hslot => ?_, ?_⟩
  · have htable : ∀ x ∈ [(1, 6, 2), (2, 8, 30), (3, 38, 4), (4, 42, 8), (5, 50, 10), (6, 60, 1), (9, 116, 12),
        (10, 128, 9), (11, 137, 6), (12, 143, 4), (13, 147, 1), (14, 148, 1), (15, 149, 2), (16, 151, 3),
        (17, 154, 14)],
        (x.2.1, (⟨x.1, x.2.2, .unsigned⟩ : Field)) ∈ placed 6 (fieldList positionReport) ∧ x.1 < 18 := by decide
    obtain ⟨hf, hslot⟩ := htable _ hmem
    exact hfield _ _ hf (Nat.lt_of_lt_of_le hslot hrec)
  · exact (hfield 61 ⟨7, 28, .signed⟩ (by decide) (by dsimp only; omega)).trans
      (u32_signrecInt (k := 27) (numberOf_take_lt _ 28))
  · exact (hfield 89 ⟨8, 27, .signed⟩ (by decide) (by dsimp only; omega)).trans
      (u32_signrecInt (k := 26) (numberOf_take_lt _ 27))
  · have hslots : ∀ j ∈ (fieldList positionReport).map Field.slot, j < 18 := by decide
    exact (hother slot hslot fun hmem => Nat.not_lt_of_le hlow (hslots _ hmem)).trans (if_neg (by omega))
  · rw [hchars] at ht
    exact ht

/-- The descriptors of the default layout of tag 5. -/
def staticReport : List Desc :=
  [.u 2 1, .u 30 2, .u 2 3, .u 30 4, .text 7 5, .text 20 12, .u 8 32, .u 9 33, .u 9 34, .u 6 35, .u 6 36, .u 4 37,
    .u 20 38, .u 8 39, .text 20 40, .u 1 60, .u 1 61]

theorem layout5_flat : Flat layout5 staticReport :=
  ⟨rfl, by decide, by decide, by decide, rfl⟩

/-- Settles O43: the fields of the static report, a TEXT being six-bit fields in consecutive slots. -/
theorem decodeFillsTheStaticReport : Obligations.DecodeFillsTheStaticReport := by
  intro s bs hlive hknown hlayout hrec hbs hlen htag field letter
  have hchars : s.c0.buf.length = 71 := by have := length_charsBits hbs; omega
  have hwidths : ((fieldList staticReport).map Field.width).sum = 418 := by decide
  have hrest : (bs.drop 424).take 2 = bs.drop 424 := List.take_of_length_le (by rw [List.length_drop]; omega)
  have htwo : ((bs.drop 424).take 2).length = 2 := by rw [hrest, List.length_drop]; omega
  obtain ⟨t, hexec, hfield, hother, ht⟩ := exec_decode_flat hbs (by omega) layout5_flat hlive (tag := 5#6) htag hknown
    hlayout (by rw [hchars]; decide) (rest := (bs.drop 424).take 2) (by rw [hwidths]; exact hrest.symm) (by omega)
    (by omega)
  have hletter {j at' : Nat} (hf : (at', ⟨j, 6, .letter⟩) ∈ placed 6 (fieldList staticReport)) (hj : j < 62) :
      t.recWord j = BitVec.ofNat 32 (letter at') := by
    rw [hfield at' ⟨j, 6, .letter⟩ hf (Nat.lt_of_lt_of_le hj hrec)]
    exact congrArg (BitVec.ofNat 32) (ascii6_of_lt_64 (numberOf_take_lt _ 6))
  refine ⟨t, hexec, hother 0 (by omega) layout5_flat.tag, fun slot at' n hmem => ?_, fun j hj => ?_, fun j hj => ?_,
    fun slot hlow hslot => ?_, ?_⟩
  · have htable : ∀ x ∈ [(1, 6, 2), (2, 8, 30), (3, 38, 2), (4, 40, 30), (32, 232, 8), (33, 240, 9), (34, 249, 9),
        (35, 258, 6), (36, 264, 6), (37, 270, 4), (38, 274, 20), (39, 294, 8), (60, 422, 1), (61, 423, 1)],
        (x.2.1, (⟨x.1, x.2.2, .unsigned⟩ : Field)) ∈ placed 6 (fieldList staticReport) ∧ x.1 < 62 := by decide
    obtain ⟨hf, hslot⟩ := htable _ hmem
    exact hfield _ _ hf (Nat.lt_of_lt_of_le hslot hrec)
  · have htext : ∀ j < 7, (70 + 6 * j, (⟨5 + j, 6, .letter⟩ : Field)) ∈ placed 6 (fieldList staticReport) := by decide
    exact hletter (htext j hj) (by omega)
  · have htext : ∀ j < 20, (112 + 6 * j, (⟨12 + j, 6, .letter⟩ : Field)) ∈ placed 6 (fieldList staticReport) ∧
        (302 + 6 * j, (⟨40 + j, 6, .letter⟩ : Field)) ∈ placed 6 (fieldList staticReport) := by decide
    obtain ⟨hname, hdest⟩ := htext j hj
    exact ⟨hletter hname (by omega), hletter hdest (by omega)⟩
  · have hslots : ∀ j ∈ (fieldList staticReport).map Field.slot, j < 62 := by decide
    exact (hother slot hslot fun hmem => Nat.not_lt_of_le hlow (hslots _ hmem)).trans (if_neg (by omega))
  · rw [hchars, htwo] at ht
    exact ht

end Sys2Proof.Machine
end
